-- ==== Sys2Proof/Word.lean ====
section
/-! DEFINITION. The words of the block: bytes, nibbles, the 16-bit parameter word, the control parameters that
a parameter word carries, and one mark and space pair of a pulse train. -/

namespace Sys2Proof

/-- A byte is 8 bits (20_memory.md R26). -/
abbrev Byte := BitVec 8

/-- A nibble is 4 bits (00_scope.md R7). -/
abbrev Nibble := BitVec 4

/-- The parameter word, 16 bits, the only input of START (30_encoding.md R40). -/
abbrev Word := BitVec 16

/-- The fields of a parameter word, each at the width format P gives it (30_encoding.md R40); the source's
ControlParameters (00_scope.md R9). The fields are wider than their valid ranges, so that an invalid request
can be presented and rejected. -/
structure Params where
  /-- TEMP, degrees, valid 18 to 32. -/
  temp : BitVec 6
  /-- MODE, the mode code, valid 0 to 3. -/
  mode : BitVec 3
  /-- VOL, the fan volume code, valid 0 to 3. -/
  vol : BitVec 3
  /-- POWER, valid 0 (off) and 1 (on). -/
  power : BitVec 2
  /-- FP, the full-power value, meaningful only when FPV is set. -/
  fp : Bool
  /-- FPV, set when full power is specified. -/
  fpv : Bool
  deriving DecidableEq, Repr

/-- One pair of a pulse train: the ON interval, then the OFF interval, in microseconds (30_encoding.md R51);
naturals, since the resampler is defined for every 106 pairs of naturals (43_resampler_packer.md R100). -/
structure Pulse where
  mark : Nat
  space : Nat
  deriving DecidableEq, Repr

end Sys2Proof
end

