-- ==== Sys2Proof/Config.lean ====
section
/-! DEFINITION. The sizes that fix the shape of the state (00_scope.md R5), and the type of the configuration
parameter LAYOUT (30_encoding.md R43). The constants that are only numbers in a rule, and the reference layout,
stand in Machine/Constants.lean. There is no free value: the spec leaves no result open
(93_implementation_defined.md). -/

namespace Sys2Proof.Config

/-- N_PAYLOAD: bytes in the payload (R5). -/
abbrev nPayload : Nat := 13

/-- N_BITS: data bits in a frame (R5). -/
abbrev nBits : Nat := 8 * nPayload

/-- N_PAIRS: leader, data bits, trailer (R5). -/
abbrev nPairs : Nat := 1 + nBits + 1

/-- N_OUT: output bytes (R5). -/
abbrev nOut : Nat := 240

/-- CAP: sample capacity (R5, 90_conflicts.md C4). -/
abbrev cap : Nat := 8 * nOut

end Sys2Proof.Config

namespace Sys2Proof

/-- The place of a payload field: byte index `B` (at most 12 by its type), bit offset `o`, width `w`
(20_memory.md R32, 30_encoding.md R43). -/
structure FieldPos where
  byte : Fin Config.nPayload
  off : Nat
  width : Nat
  deriving DecidableEq, Repr

/-- LAYOUT: the 13 constant bytes BASE and the places of the seven variable fields (30_encoding.md R43). It is
fixed for the whole model and no input of a step (70_reset_and_hazards.md R139). -/
structure Layout where
  base : Vector Byte Config.nPayload
  temp : FieldPos
  cmd : FieldPos
  mode : FieldPos
  volSet : FieldPos
  volLevel : FieldPos
  fullPower : FieldPos
  checksum : FieldPos
  deriving DecidableEq, Repr

/-- The seven variable fields (30_encoding.md R42, R43). -/
def Layout.fields (L : Layout) : List FieldPos :=
  [L.temp, L.cmd, L.mode, L.volSet, L.volLevel, L.fullPower, L.checksum]

/-- Bit `b` of payload byte `i` belongs to the field (20_memory.md R32). -/
def FieldPos.hasBit (f : FieldPos) (i b : Nat) : Bool :=
  f.byte.val == i && decide (f.off ≤ b) && decide (b < f.off + f.width)

end Sys2Proof
end

