-- ==== Sys2Proof/Machine/Constants.lean ====
section
/-! DEFINITION. The numeric constants of 00_scope.md R5 that no type depends on, and the layout the machine runs
with. They stand under Machine/ so that a later repair can mend a number. -/

namespace Sys2Proof.Config

/-- T_MARK: the mark unit in microseconds (R5). -/
abbrev tMark : Nat := 488

/-- T_SPACE: the space unit in microseconds (R5). -/
abbrev tSpace : Nat := 464

/-- LEADER_MARK_UNITS (R5). -/
abbrev leaderMarkUnits : Nat := 8

/-- LEADER_SPACE_UNITS (R5). -/
abbrev leaderSpaceUnits : Nat := 4

/-- BIT_MARK_UNITS (R5). -/
abbrev bitMarkUnits : Nat := 1

/-- ZERO_SPACE_UNITS (R5). -/
abbrev zeroSpaceUnits : Nat := 1

/-- ONE_SPACE_UNITS (R5). -/
abbrev oneSpaceUnits : Nat := 3

/-- TRAILER_SPACE in microseconds (R5). -/
abbrev trailerSpace : Nat := 8000

/-- T_SAMPLE: the sampling period in microseconds (R5). -/
abbrev tSample : Nat := 100

/-- TEMP_MIN (R5). -/
abbrev tempMin : Nat := 18

/-- TEMP_MAX (R5). -/
abbrev tempMax : Nat := 32

/-- TEMP_BIAS (R5). -/
abbrev tempBias : Nat := 17

/-- The largest valid MODE code (40_commands.md R61). -/
abbrev modeMax : Nat := 3

/-- The largest valid VOL code (40_commands.md R61). -/
abbrev volMax : Nat := 3

/-- The largest valid POWER value (40_commands.md R61). -/
abbrev powerMax : Nat := 1

/-- CMD_ON (R5). -/
abbrev cmdOn : Nat := 1

/-- CMD_OFF (R5). -/
abbrev cmdOff : Nat := 2

/-- CMD_FP_ON (R5). -/
abbrev cmdFpOn : Nat := 6

/-- CMD_FP_OFF (R5). -/
abbrev cmdFpOff : Nat := 7

/-- CK_FIRST: first nibble of the checksum range (R5; 41_payload_builder.md R81, 90_conflicts.md C1). -/
abbrev ckFirst : Nat := 5

/-- CK_LAST: last nibble of the checksum range, inclusive (R5; R81, C1). -/
abbrev ckLast : Nat := 23

/-- REF, the spec's reference instance of LAYOUT (30_encoding.md R44); not a claim about the real device (log 1). -/
def ref : Layout where
  base := #v[0xAA, 0x5A, 0xCF, 0x10, 0x00, 0x01, 0x00, 0x00, 0x08, 0x80, 0x00, 0xE0, 0x01]
  temp := { byte := 4, off := 0, width := 4 }
  cmd := { byte := 5, off := 4, width := 4 }
  mode := { byte := 6, off := 0, width := 2 }
  volSet := { byte := 6, off := 4, width := 1 }
  volLevel := { byte := 6, off := 5, width := 2 }
  fullPower := { byte := 10, off := 0, width := 1 }
  checksum := { byte := 12, off := 4, width := 4 }

/-- The layout the machine is built with. DESIGN CHOICE (log 1): the reference instance; every builder operation
takes the layout as an argument, so that a claim can be stated for every well-formed one (R43). -/
def layout : Layout := ref

end Sys2Proof.Config
end

