-- ==== Sys2Proof/Syntax.lean ====
section
/-! DEFINITION. The four commands of the block (30_encoding.md R47), one constructor per row of
spec/opcode_table.json. -/

namespace Sys2Proof

/-- A command with its operands at the widths format P gives them (30_encoding.md R40); the valid ranges are
checked by `Instr.wf`. -/
inductive Instr where
  /-- ON t, m, v: plain power on (40_commands.md R63). -/
  | on (t : BitVec 6) (m : BitVec 3) (v : BitVec 3)
  /-- OFF t, m, v: plain power off (40_commands.md R64). -/
  | off (t : BitVec 6) (m : BitVec 3) (v : BitVec 3)
  /-- FPON p, t, m, v: full power on (40_commands.md R65). -/
  | fpon (p : BitVec 2) (t : BitVec 6) (m : BitVec 3) (v : BitVec 3)
  /-- FPOFF p, t, m, v: full power off (40_commands.md R66). -/
  | fpoff (p : BitVec 2) (t : BitVec 6) (m : BitVec 3) (v : BitVec 3)
  deriving DecidableEq, Repr

end Sys2Proof
end

