-- ==== Sys2Proof/WellFormed.lean ====
section
/-! DEFINITION. When a command's operands lie in the ranges the encoding admits (30_encoding.md R48), and when a
LAYOUT is well formed (30_encoding.md R43, W1 to W4). -/

namespace Sys2Proof

/-- TEMP, MODE and VOL in range (30_encoding.md R48: 18 to 32; bits 8 and 11 clear). -/
def operandsInRange (t : BitVec 6) (m v : BitVec 3) : Bool :=
  decide (Config.tempMin ≤ t.toNat) && decide (t.toNat ≤ Config.tempMax)
    && decide (m.toNat ≤ Config.modeMax) && decide (v.toNat ≤ Config.volMax)

/-- A well-formed command: its word matches its row of the command map (30_encoding.md R48). -/
def Instr.wf : Instr → Bool
  | .on t m v => operandsInRange t m v
  | .off t m v => operandsInRange t m v
  | .fpon p t m v => decide (p.toNat ≤ Config.powerMax) && operandsInRange t m v
  | .fpoff p t m v => decide (p.toNat ≤ Config.powerMax) && operandsInRange t m v

namespace Layout

/-- W1: each field has a width and lies inside one byte; its byte index is at most 12 by its type (R43). -/
abbrev W1 (L : Layout) : Prop := ∀ f ∈ L.fields, 1 ≤ f.width ∧ f.off + f.width ≤ 8

/-- W2: the widths hold every value the rules store, and the checksum is one nibble (R43). -/
abbrev W2 (L : Layout) : Prop :=
  4 ≤ L.temp.width ∧ 3 ≤ L.cmd.width ∧ 2 ≤ L.mode.width ∧ L.volSet.width = 1 ∧ 2 ≤ L.volLevel.width
    ∧ L.fullPower.width = 1 ∧ L.checksum.width = 4 ∧ (L.checksum.off = 0 ∨ L.checksum.off = 4)

/-- Two fields share no bit. -/
abbrev Disjoint (f g : FieldPos) : Prop :=
  f.byte ≠ g.byte ∨ f.off + f.width ≤ g.off ∨ g.off + g.width ≤ f.off

/-- W3: no two of the seven fields share a bit (R43). -/
abbrev W3 (L : Layout) : Prop := L.fields.Pairwise Disjoint

/-- W4: BASE is 0 at every bit of every field (R43). -/
abbrev W4 (L : Layout) : Prop :=
  ∀ f ∈ L.fields, ∀ b < f.width, (L.base[f.byte]).getLsbD (f.off + b) = false

/-- A well-formed LAYOUT (30_encoding.md R43). -/
abbrev WellFormed (L : Layout) : Prop := L.W1 ∧ L.W2 ∧ L.W3 ∧ L.W4

end Layout

end Sys2Proof
end

