-- ==== Sys2Proof/Decode.lean ====
section
/-! DEFINITION. Format P: the fields of a parameter word (30_encoding.md R40), the command map by mask and match
(R48), the decoder, total on every 16-bit word (R49), and the encoder (R56). -/

namespace Sys2Proof

/-- The fields of a parameter word (30_encoding.md R40). -/
def paramsOfWord (w : Word) : Params where
  temp := w.extractLsb' 0 6
  mode := w.extractLsb' 6 3
  vol := w.extractLsb' 9 3
  power := w.extractLsb' 12 2
  fp := w.getLsbD 14
  fpv := w.getLsbD 15

/-- `w = t | m << 6 | v << 9 | p << 12 | FP << 14 | FPV << 15` (30_encoding.md R56). -/
def wordOfParams (p : Params) : Word :=
  p.temp.setWidth 16 ||| p.mode.setWidth 16 <<< 6 ||| p.vol.setWidth 16 <<< 9 ||| p.power.setWidth 16 <<< 12
    ||| (BitVec.ofBool p.fp).setWidth 16 <<< 14 ||| (BitVec.ofBool p.fpv).setWidth 16 <<< 15

/-- One row of the command map: the word bits that are fixed, and their values (30_encoding.md R48). -/
structure OpRow where
  mask : Word
  value : Word
  deriving DecidableEq, Repr

/-- ON (R48). -/
def rowOn : OpRow := { mask := 0xF900, value := 0x1000 }

/-- OFF (R48). -/
def rowOff : OpRow := { mask := 0xF900, value := 0x0000 }

/-- FPON (R48). -/
def rowFpon : OpRow := { mask := 0xE900, value := 0xC000 }

/-- FPOFF (R48). -/
def rowFpoff : OpRow := { mask := 0xE900, value := 0x8000 }

/-- The four rows, in the order of the table. -/
def opRows : List OpRow := [rowOn, rowOff, rowFpon, rowFpoff]

/-- `(w & mask) = match`, and TEMP in its range beside the mask (30_encoding.md R48). -/
def rowMatches (r : OpRow) (w : Word) : Bool :=
  (w &&& r.mask == r.value)
    && decide (Config.tempMin ≤ (paramsOfWord w).temp.toNat) && decide ((paramsOfWord w).temp.toNat ≤ Config.tempMax)

/-- What a parameter word is: one of the four commands, or invalid. An invalid word is rejected under one name
whatever is wrong with it (30_encoding.md R49, 60_exceptions.md R118). -/
inductive Decoded where
  | command (i : Instr)
  | invalidParameters
  deriving DecidableEq, Repr

/-- The decoder: total, one length, one format (30_encoding.md R48 to R50). -/
def decode (w : Word) : Decoded :=
  let p := paramsOfWord w
  if rowMatches rowOn w then .command (.on p.temp p.mode p.vol)
  else if rowMatches rowOff w then .command (.off p.temp p.mode p.vol)
  else if rowMatches rowFpon w then .command (.fpon p.power p.temp p.mode p.vol)
  else if rowMatches rowFpoff w then .command (.fpoff p.power p.temp p.mode p.vol)
  else .invalidParameters

/-- The control parameters of a command (30_encoding.md R47, R56): ON and OFF leave full power unspecified, FPON
and FPOFF specify it. -/
def instrParams : Instr → Params
  | .on t m v => { temp := t, mode := m, vol := v, power := 1, fp := false, fpv := false }
  | .off t m v => { temp := t, mode := m, vol := v, power := 0, fp := false, fpv := false }
  | .fpon p t m v => { temp := t, mode := m, vol := v, power := p, fp := true, fpv := true }
  | .fpoff p t m v => { temp := t, mode := m, vol := v, power := p, fp := false, fpv := true }

/-- The word of a command (30_encoding.md R56). -/
def encode (i : Instr) : Word := wordOfParams (instrParams i)

/-- The decoder on a row of spec/opcode_table.json: a command is one 16-bit word, so its bits are the word. -/
def decodeTableWord (nbits w : Nat) : Option Instr :=
  match decode (BitVec.ofNat 16 (w % 2 ^ nbits)) with
  | .command i => some i
  | .invalidParameters => none

end Sys2Proof
end

