-- ==== Sys2Proof/Machine/State.lean ====
section
/-! DEFINITION. The state of the block and of its environment, and the reasons a step could stop. -/

namespace Sys2Proof.Machine

/-- ST, the status register (10_state.md R11). The value 3 is never produced, so the type has three values
(93_implementation_defined.md U10); `statusCode` gives the 2-bit code a host reads. -/
inductive Status where
  /-- 0: no command has completed since reset. -/
  | idle
  /-- 1: the last START was valid. -/
  | done
  /-- 2: the last START was rejected. -/
  | error
  deriving DecidableEq, Repr

/-- PAYLOAD and OUT, the pair of result registers (10_state.md R12, R13). -/
structure Results where
  payload : Vector Byte Config.nPayload
  out : Vector Byte Config.nOut
  deriving DecidableEq, Repr

/-- The five events by which a host uses the block (70_reset_and_hazards.md R140). A read takes any natural as
its index; one outside the space is refused (20_memory.md R27). -/
inductive HostEvent where
  | reset
  | start (w : Word)
  | readST
  | readPayload (i : Nat)
  | readOut (j : Nat)
  deriving DecidableEq, Repr

/-- What a host receives from a read (70_reset_and_hazards.md R140, R141). -/
inductive Answer where
  /-- ReadST: the 2-bit code of ST. -/
  | status (code : BitVec 2)
  /-- ReadPayload or ReadOut: one byte. -/
  | byte (b : Byte)
  /-- A read the model refuses; it carries no value (10_state.md R17). -/
  | refused
  deriving DecidableEq, Repr

/-- The state: everything 10_state.md R10 lists, and the environment of a run (log 3). -/
structure State where
  /-- ST (R11). -/
  st : Status
  /-- PAYLOAD and OUT, "an optional pair that is present exactly when ST = DONE" (R17). -/
  results : Option Results
  /-- PULSE, the pulse train (R14). -/
  pulse : Vector Pulse Config.nPairs
  /-- SAMPLE, 1920 one-bit elements; sample `i` is bit `i` (R15, log 9). -/
  sample : BitVec Config.cap
  /-- CLK, the running microsecond clock of the resampler (R16). -/
  clk : Nat
  /-- POS, the grid position (R16). -/
  pos : Nat
  /-- The model's own: the host's events still to be presented, oldest first (log 3). -/
  events : List HostEvent
  /-- The model's own: the answers the host has received, oldest first (log 3). -/
  answers : List Answer
  deriving DecidableEq, Repr

/-- The one exception of the block. -/
inductive Fault where
  /-- InvalidParameters (60_exceptions.md R115). Raised by no step as a stop: the spec describes its entry, so the
  model takes it as a next state with ST = ERROR (R117, log 5). Safe: nothing is cut short. -/
  | invalidParameters
  deriving DecidableEq, Repr

/-- Why a step gives no meaning. -/
inductive Refusal where
  /-- An instruction of the table without a meaning in exec. Raised by no arm: all four have one. Safe. -/
  | notModelled (mnemonic : String)
  deriving DecidableEq, Repr

/-- The machine right after reset (10_state.md R21, 70_reset_and_hazards.md R130, R131): ST = IDLE, PAYLOAD and
OUT hold no value. PULSE, SAMPLE, CLK and POS are unspecified there: zero is a DESIGN CHOICE (log 2), as is an
environment with nothing to present and nothing received (log 3). -/
def State.reset : State where
  st := .idle
  results := none
  pulse := Vector.replicate Config.nPairs { mark := 0, space := 0 }
  sample := 0
  clk := 0
  pos := 0
  events := []
  answers := []

end Sys2Proof.Machine
end

