-- ==== Sys2Proof/Machine/Flags.lean ====
section
/-! DEFINITION. ST, "the only flag of the block; no operation sets a carry, zero, overflow or truncation flag"
(10_state.md R11): its code, and the value each event leaves in it. -/

namespace Sys2Proof.Machine

/-- The code a host reads (10_state.md R11). -/
def statusCode : Status → BitVec 2
  | .idle => 0
  | .done => 1
  | .error => 2

/-- ST after a valid START (40_commands.md R60). -/
def statusAfterValid : Status := .done

/-- ST after a rejected START (60_exceptions.md R117). -/
def statusAfterRejected : Status := .error

/-- ST after RESET (70_reset_and_hazards.md R130). -/
def statusAfterReset : Status := .idle

end Sys2Proof.Machine
end

