-- ==== Sys2Proof/Machine/Operands.lean ====
section
/-! DEFINITION. Operand assembly (30_encoding.md R46): validation of the control parameters, and the value each
variable payload field takes from them. -/

namespace Sys2Proof.Machine

/-- Valid(w) (40_commands.md R61), a single Boolean: the order of the checks cannot be observed
(60_exceptions.md R118). -/
def valid (p : Params) : Bool :=
  decide (Config.tempMin ≤ p.temp.toNat) && decide (p.temp.toNat ≤ Config.tempMax)
    && decide (p.mode.toNat ≤ Config.modeMax)
    && decide (p.vol.toNat ≤ Config.volMax)
    && decide (p.power.toNat ≤ Config.powerMax)
    && (p.fpv || !p.fp)

/-- TEMP (41_payload_builder.md R73). -/
def tempField (p : Params) : Nat := p.temp.toNat - Config.tempBias

/-- CMD (R74). -/
def cmdCode (p : Params) : Nat :=
  if p.fpv = false then (if p.power.toNat = 1 then Config.cmdOn else Config.cmdOff)
  else (if p.fp = true then Config.cmdFpOn else Config.cmdFpOff)

/-- MODE (R75). -/
def modeField (p : Params) : Nat := p.mode.toNat

/-- VOLSET (R76). -/
def volSet (p : Params) : Nat := if p.vol.toNat = 0 then 0 else 1

/-- VOLLEVEL, in the two-armed form the source wants kept (R77, 90_conflicts.md C6). -/
def volLevel (p : Params) : Nat := if p.vol.toNat = 1 then 1 else p.vol.toNat

/-- FULLPOWER: presence, not value (R78). -/
def fullPowerFlag (p : Params) : Nat := if p.fpv then 1 else 0

end Sys2Proof.Machine
end

