-- ==== Sys2Proof/Machine/Builder.lean ====
section
/-! DEFINITION. The Payload Builder (41_payload_builder.md): placing a field, the nibble view, the checksum, the
13 bytes. The layout is an argument, so that every rule can be stated for every well-formed LAYOUT (30_encoding.md
R43). -/

namespace Sys2Proof.Machine

/-- The 13 bytes of a payload. -/
abbrev Payload := Vector Byte Config.nPayload

/-- `v[hi:lo]` (00_scope.md R7). -/
def bits (v hi lo : Nat) : Nat := v / 2 ^ lo % 2 ^ (hi - lo + 1)

/-- Byte `i` of a payload. Every rule's index is at most 12 (20_memory.md R27); above it the function is 0 only to
be total. -/
def byteAt (P : Payload) (i : Nat) : Byte := P[i]?.getD 0

/-- The value held by a field, `PAYLOAD[f.B][f.o + f.w - 1 : f.o]` (30_encoding.md R45, 20_memory.md R32). -/
def fieldValue (P : Payload) (f : FieldPos) : Nat :=
  bits (P[f.byte]).toNat (f.off + f.width - 1) f.off

/-- Put: `P[f.B] <- P[f.B] | (v << f.o)` (41_payload_builder.md R70). -/
def put (P : Payload) (f : FieldPos) (v : Nat) : Payload :=
  P.set f.byte (P[f.byte] ||| BitVec.ofNat 8 (v <<< f.off))

/-- The NIBBLE view (20_memory.md R31): `(P[n div 2] >> (4 * (n mod 2))) & 0xF`. -/
def nibble (P : Payload) (n : Nat) : Nibble :=
  (byteAt P (n / 2) >>> (4 * (n % 2))).setWidth 4

/-- The nibbles of the checksum range, in order (41_payload_builder.md R81). -/
def checksumRange : List Nat := List.range' Config.ckFirst (Config.ckLast - Config.ckFirst + 1)

/-- The XOR of the nibbles CK_FIRST to CK_LAST (41_payload_builder.md R80). -/
def checksum (P : Payload) : Nibble :=
  checksumRange.foldl (fun acc n => acc ^^^ nibble P n) 0

/-- BASE with the six fields that are not the checksum (41_payload_builder.md R70). -/
def payloadBeforeChecksum (L : Layout) (p : Params) : Payload :=
  let P := L.base
  let P := put P L.temp (tempField p)
  let P := put P L.cmd (cmdCode p)
  let P := put P L.mode (modeField p)
  let P := put P L.volSet (volSet p)
  let P := put P L.volLevel (volLevel p)
  put P L.fullPower (fullPowerFlag p)

/-- BuildPayload: the checksum is put last, computed while its own field is zero (41_payload_builder.md R70, R82). -/
def buildPayload (L : Layout) (p : Params) : Payload :=
  put (payloadBeforeChecksum L p) L.checksum (checksum (payloadBeforeChecksum L p)).toNat

/-- The payload with one field set to zero; the self-check of 41_payload_builder.md R83 is stated with it. -/
def clearField (P : Payload) (f : FieldPos) : Payload :=
  P.set f.byte (P[f.byte] &&& ~~~ (BitVec.ofNat 8 ((2 ^ f.width - 1) <<< f.off)))

end Sys2Proof.Machine
end

