-- ==== Sys2Proof/Machine/Framing.lean ====
section
/-! DEFINITION. Pulse-distance framing (42_pulse_framing.md): from 13 payload bytes to 106 (mark, space) pairs. -/

namespace Sys2Proof.Machine

/-- The BIT view: data bit `d` is `PAYLOAD[d div 8][d mod 8]` (20_memory.md R30). -/
def dataBit (P : Payload) (d : Nat) : Bool := (byteAt P (d / 8)).getLsbD (d % 8)

/-- The leader, its mark in mark units and its space in space units (42_pulse_framing.md R91). -/
def leaderPair : Pulse :=
  { mark := Config.leaderMarkUnits * Config.tMark, space := Config.leaderSpaceUnits * Config.tSpace }

/-- The pair of a data bit: only the space carries it (R92). -/
def dataPair (b : Bool) : Pulse where
  mark := Config.bitMarkUnits * Config.tMark
  space := if b then Config.oneSpaceUnits * Config.tSpace else Config.zeroSpaceUnits * Config.tSpace

/-- The trailer (R93). -/
def trailerPair : Pulse := { mark := Config.bitMarkUnits * Config.tMark, space := Config.trailerSpace }

/-- Pair `k` of the frame: the leader at 0, data bit `d` at `1 + d`, the trailer after the last data bit (R94). -/
def framePair (P : Payload) (k : Nat) : Pulse :=
  if k = 0 then leaderPair
  else if k ≤ Config.nBits then dataPair (dataBit P (k - 1))
  else trailerPair

/-- Frame: defined for every 13 bytes; all 106 pairs are written (R90, R95). -/
def frame (P : Payload) : Vector Pulse Config.nPairs := Vector.ofFn fun k => framePair P k.val

/-- `k1`, the number of 1 bits among the data bits (R96). -/
def oneBits (P : Payload) : Nat := (List.range Config.nBits).countP (dataBit P)

/-- The sum of all marks and spaces of a pulse train (R96). -/
def totalDuration (T : Vector Pulse Config.nPairs) : Nat := (T.toList.map fun q => q.mark + q.space).sum

/-- The start time of pair `k`: the sum of the marks and spaces of the pairs before it (R94). -/
def startTime (T : Vector Pulse Config.nPairs) (k : Nat) : Nat :=
  ((T.toList.take k).map fun q => q.mark + q.space).sum

end Sys2Proof.Machine
end

