-- ==== Sys2Proof/Machine/Resampler.lean ====
section
/-! DEFINITION. The resampler and the byte packer (43_resampler_packer.md): from 106 pairs to 1920 samples on the
100 microsecond grid, and from the samples to 240 bytes. -/

namespace Sys2Proof.Machine

/-- SAMPLE, CLK and POS while a transform runs (43_resampler_packer.md R100). -/
structure Grid where
  sample : BitVec Config.cap
  clk : Nat
  pos : Nat
  deriving DecidableEq, Repr

/-- SampleWrite, the bounded store: an index at or above CAP writes nothing (R104). -/
def sampleWrite (S : BitVec Config.cap) (i : Nat) (v : Bool) : BitVec Config.cap :=
  if i < Config.cap then
    (if v then S ||| BitVec.twoPow Config.cap i else S &&& ~~~ BitVec.twoPow Config.cap i)
  else S

/-- `n` turns of the fill loop: write the slot POS, then POS + 1 whether or not it was written (R103, R104). -/
def fillLoop (v : Bool) : Nat → Grid → Grid
  | 0, g => g
  | n + 1, g => fillLoop v n { g with sample := sampleWrite g.sample g.pos v, pos := g.pos + 1 }

/-- Fill(e, v): while POS < e, so `e - POS` turns; the range is half-open (R103). -/
def fill (e : Nat) (v : Bool) (g : Grid) : Grid := fillLoop v (e - g.pos) g

/-- Advance CLK by a duration, then fill up to the floor of the cumulative time over the period (R103, R106). -/
def advance (d : Nat) (v : Bool) (g : Grid) : Grid :=
  fill ((g.clk + d) / Config.tSample) v { g with clk := g.clk + d }

/-- One pair: the mark with 1, then the space with 0 (R100). -/
def pairStep (g : Grid) (q : Pulse) : Grid := advance q.space false (advance q.mark true g)

/-- Every sample 0, CLK and POS at 0 (R101, R102). -/
def gridStart : Grid := { sample := 0, clk := 0, pos := 0 }

/-- Resample: every pair in index order, no early exit (R100, R105). -/
def resample (T : Vector Pulse Config.nPairs) : Grid := T.toList.foldl pairStep gridStart

/-- One sample as a byte, at bit `b` (R111). -/
def sampleAt (S : BitVec Config.cap) (i b : Nat) : Byte := (BitVec.ofBool (S.getLsbD i)).setWidth 8 <<< b

/-- `S[8j] | S[8j+1] << 1 | ... | S[8j+7] << 7` (R111). -/
def packByte (S : BitVec Config.cap) (j : Nat) : Byte :=
  sampleAt S (8 * j) 0 ||| sampleAt S (8 * j + 1) 1 ||| sampleAt S (8 * j + 2) 2 ||| sampleAt S (8 * j + 3) 3
    ||| sampleAt S (8 * j + 4) 4 ||| sampleAt S (8 * j + 5) 5 ||| sampleAt S (8 * j + 6) 6
    ||| sampleAt S (8 * j + 7) 7

/-- Pack: always 240 bytes (R111, R112). -/
def pack (S : BitVec Config.cap) : Vector Byte Config.nOut := Vector.ofFn fun j => packByte S j.val

/-- Encode(P) = Pack(Resample(Frame(P))), for any 13 bytes (R113). -/
def encodePayload (P : Payload) : Vector Byte Config.nOut := pack (resample (frame P)).sample

end Sys2Proof.Machine
end

