-- ==== Sys2Proof/Machine/Ops.lean ====
section
/-! DEFINITION. The shared operations over the state: the transform, START, taking the one exception, RESET and the
host's reads. -/

namespace Sys2Proof.Machine

/-- The transform: build, frame, resample, pack, in this order (40_commands.md R62). -/
def transform (L : Layout) (p : Params) : Results :=
  { payload := buildPayload L p, out := encodePayload (buildPayload L p) }

/-- ST = DONE, the results, and the buffers of the stages at what the stages left (40_commands.md R60). CLK and POS
stay at their final values (93_implementation_defined.md U11); that all four buffers keep what the stages left is
log 6. -/
def storeResults (r : Results) (T : Vector Pulse Config.nPairs) (g : Grid) (s : State) : State :=
  { s with
    st := statusAfterValid, results := some r, pulse := T, sample := g.sample, clk := g.clk, pos := g.pos }

/-- The state a valid command leaves: the transform's results, each stage having consumed the whole result of the
one before (40_commands.md R60, R62; 20_memory.md R37 (b)). -/
def complete (L : Layout) (p : Params) (s : State) : State :=
  storeResults (transform L p) (frame (buildPayload L p)) (resample (frame (buildPayload L p))) s

/-- Taking InvalidParameters (60_exceptions.md R117): ST = ERROR, PAYLOAD and OUT lose their values, no stage runs
and nothing else is written or recorded (R118). There is no return operation: the next START or RESET leaves the
state ERROR (R120). -/
def raiseInvalidParameters (s : State) : State := { s with st := statusAfterRejected, results := none }

/-- START on given control parameters (40_commands.md R60). -/
def start (L : Layout) (p : Params) (s : State) : State :=
  if valid p then complete L p s else raiseInvalidParameters s

/-- RESET (70_reset_and_hazards.md R130): every field of the block at its reset value, the environment kept. The
values of PULSE, SAMPLE, CLK and POS are the model's (log 2). -/
def resetBlock (s : State) : State :=
  { State.reset with st := statusAfterReset, events := s.events, answers := s.answers }

/-- The answer of ReadST, in any state (40_commands.md R69). -/
def readST (s : State) : Answer := .status (statusCode s.st)

/-- The answer of ReadPayload(i): PAYLOAD[i] when ST = DONE and `i` is at most 12, refused otherwise
(40_commands.md R69, 20_memory.md R27, 10_state.md R17). -/
def readPayload (i : Nat) (s : State) : Answer :=
  match s.st, s.results with
  | .done, some r => if h : i < Config.nPayload then .byte r.payload[i] else .refused
  | _, _ => .refused

/-- The answer of ReadOut(j): OUT[j] when ST = DONE and `j` is at most 239, refused otherwise (same rules). -/
def readOut (j : Nat) (s : State) : Answer :=
  match s.st, s.results with
  | .done, some r => if h : j < Config.nOut then .byte r.out[j] else .refused
  | _, _ => .refused

/-- The host receives an answer; a read changes nothing else (20_memory.md R35, log 3). -/
def receive (a : Answer) (s : State) : State := { s with answers := s.answers ++ [a] }

end Sys2Proof.Machine
end

