-- ==== Sys2Proof/Machine/Commands.lean ====
section
/-! DEFINITION. The meaning of each command (40_commands.md R63 to R66): START with the command's parameters.
Operands outside their ranges raise InvalidParameters, as START on such a word does (R61, log 8). -/

namespace Sys2Proof.Machine

/-- ON: POWER = 1, FPV = 0, so CMD = 1 and FULLPOWER = 0 (40_commands.md R63). -/
def execOn (t : BitVec 6) (m v : BitVec 3) (s : State) : Host.Outcome State Fault Refusal :=
  .next (start Config.layout (instrParams (.on t m v)) s)

/-- OFF: POWER = 0, FPV = 0, so CMD = 2 and FULLPOWER = 0 (40_commands.md R64). -/
def execOff (t : BitVec 6) (m v : BitVec 3) (s : State) : Host.Outcome State Fault Refusal :=
  .next (start Config.layout (instrParams (.off t m v)) s)

/-- FPON: FPV = 1, FP = 1, so CMD = 6 and FULLPOWER = 1; POWER is checked and then unused (40_commands.md R65). -/
def execFpon (p : BitVec 2) (t : BitVec 6) (m v : BitVec 3) (s : State) : Host.Outcome State Fault Refusal :=
  .next (start Config.layout (instrParams (.fpon p t m v)) s)

/-- FPOFF: FPV = 1, FP = 0, so CMD = 7 and FULLPOWER = 1 (40_commands.md R66). -/
def execFpoff (p : BitVec 2) (t : BitVec 6) (m v : BitVec 3) (s : State) : Host.Outcome State Fault Refusal :=
  .next (start Config.layout (instrParams (.fpoff p t m v)) s)

end Sys2Proof.Machine
end

