-- ==== Sys2Proof/Machine/Dispatch.lean ====
section
/-! DEFINITION. One arm per command. -/

namespace Sys2Proof.Machine

def exec (i : Instr) (s : State) : Host.Outcome State Fault Refusal :=
  match i with
  | .on t m v => Sys2Proof.Machine.execOn t m v s
  | .off t m v => Sys2Proof.Machine.execOff t m v s
  | .fpon p t m v => Sys2Proof.Machine.execFpon p t m v s
  | .fpoff p t m v => Sys2Proof.Machine.execFpoff p t m v s

end Sys2Proof.Machine
end

