-- ==== Sys2Proof/Machine/HostPort.lean ====
section
/-! DEFINITION. What the block does with one host event (70_reset_and_hazards.md R140). -/

namespace Sys2Proof.Machine

/-- START(w): the word is decoded once and its command runs; an invalid word raises InvalidParameters
(40_commands.md R60, 30_encoding.md R49, 20_memory.md R39). -/
def startWord (w : Word) (s : State) : Host.Outcome State Fault Refusal :=
  match decode w with
  | .command i => exec i s
  | .invalidParameters => .next (raiseInvalidParameters s)

/-- One event, from a state in which it is no longer pending. A refused read is an answer and the host goes on
(log 4). -/
def hostStep (e : HostEvent) (s : State) : Host.Outcome State Fault Refusal :=
  match e with
  | .reset => .next (resetBlock s)
  | .start w => startWord w s
  | .readST => .next (receive (readST s) s)
  | .readPayload i => .next (receive (readPayload i s) s)
  | .readOut j => .next (receive (readOut j s) s)

/-- The state with the events that are still pending replaced. -/
def setEvents (es : List HostEvent) (s : State) : State := { s with events := es }

/-- A START presented before whatever else the host would present (log 7). -/
def presentWord (nbits w : Nat) (s : State) : State :=
  setEvents (.start (BitVec.ofNat 16 (w % 2 ^ nbits)) :: s.events) s

end Sys2Proof.Machine
end

