-- ==== Sys2Proof/Machine/Step.lean ====
section
/-! DEFINITION. One step: the host's next event, if there is one (70_reset_and_hazards.md R141). -/

namespace Sys2Proof.Machine

/-- The oldest pending event is taken and acted on; with none pending nothing happens (70_reset_and_hazards.md
R132, R144). -/
def step (s : State) : Host.Outcome State Fault Refusal :=
  match s.events with
  | [] => .next s
  | e :: rest => hostStep e (setEvents rest s)

/-- The state in which the very next step is START with the given word (log 7). -/
def State.withFetchWord (s : State) (nbits w : Nat) : State := presentWord nbits w s

end Sys2Proof.Machine
end

