-- ==== Sys2Proof/Machine/FrontEnd.lean ====
section
/-! DEFINITION. The assembler-level syntax of a command and the printed form (30_encoding.md R41, R55, R58), and the
host events of one run of the source's program (70_reset_and_hazards.md R141). The front end is an external
collaborator (00_scope.md R4): no step of the machine calls anything of this file. -/

namespace Sys2Proof.Machine

/-- The flag line `-p -t -m -v [-f]`, each the number after its flag, or absent (30_encoding.md R55). -/
structure FlagLine where
  power : Option Nat
  temp : Option Nat
  mode : Option Nat
  vol : Option Nat
  fullPower : Option Nat
  deriving DecidableEq, Repr

/-- A number that fits a field of `n` bits; the front end must not mask one that does not
(70_reset_and_hazards.md R134). -/
def fitted (n v : Nat) : Option (BitVec n) := if v < 2 ^ n then some (BitVec.ofNat n v) else none

/-- FP and FPV from the optional `-f`: presence sets FPV (30_encoding.md R55). -/
def fullPowerBits : Option Nat → Option (Bool × Bool)
  | none => some (false, false)
  | some v => if v < 2 then some (decide (v = 1), true) else none

/-- The parameter word of a flag line; none where the front end must reject the line itself (R55). -/
def flagWord (f : FlagLine) : Option Word :=
  match f.power.bind (fitted 2), f.temp.bind (fitted 6), f.mode.bind (fitted 3), f.vol.bind (fitted 3),
    fullPowerBits f.fullPower with
  | some p, some t, some m, some v, some (fp, fpv) =>
    some (wordOfParams { temp := t, mode := m, vol := v, power := p, fp := fp, fpv := fpv })
  | _, _, _, _, _ => none

/-- The names a mode code may be written by (30_encoding.md R41, R56). -/
inductive ModeName where
  | auto | heat | cool | dry
  deriving DecidableEq, Repr

/-- The names a volume code may be written by (30_encoding.md R41, R56). -/
inductive VolName where
  | auto | low | mid | high
  deriving DecidableEq, Repr

/-- The codes of the mode names, in list order (30_encoding.md R41). -/
def modeCode : ModeName → BitVec 3
  | .auto => 0
  | .heat => 1
  | .cool => 2
  | .dry => 3

/-- The codes of the volume names, in list order (30_encoding.md R41). -/
def volCode : VolName → BitVec 3
  | .auto => 0
  | .low => 1
  | .mid => 2
  | .high => 3

/-- A lowercase hexadecimal digit. -/
def hexDigit (n : Nibble) : Char :=
  if n.toNat < 10 then Char.ofNat (48 + n.toNat) else Char.ofNat (87 + n.toNat)

/-- The printed form: two lowercase characters per byte, high nibble first, no separators (30_encoding.md R58). -/
def printedForm (bs : List Byte) : List Char :=
  bs.flatMap fun (b : Byte) => [hexDigit ((b >>> 4).setWidth 4), hexDigit (b.setWidth 4)]

/-- The host events of one run of the source's program for a word the block accepts (70_reset_and_hazards.md
R141). -/
def programEvents (w : Word) : List HostEvent :=
  [.reset, .start w, .readST] ++ (List.range Config.nOut).map .readOut

/-- The host events of one run of the source's program for a word the block rejects (R141). -/
def rejectedProgramEvents (w : Word) : List HostEvent := [.reset, .start w, .readST]

end Sys2Proof.Machine
end

