-- ==== Sys2Proof/Safety.lean ====
section
/-! DEFINITION. What a sound state of the block is, and what a host can see of it: the terms the claims use. -/

namespace Sys2Proof.Machine

/-- Every payload bit outside the seven variable fields equals BASE (10_state.md R18). -/
def ConstantBitsHold (L : Layout) (P : Payload) : Prop :=
  ∀ i < Config.nPayload, ∀ b < 8, (∀ f ∈ L.fields, f.hasBit i b = false) →
    (byteAt P i).getLsbD b = (byteAt L.base i).getLsbD b

/-- What every bit of a payload is, when its fields hold the given values: the variable fields, the checksum over
the payload with its own field zero, and the constant bits (30_encoding.md R45, R46). -/
def PayloadHolds (L : Layout) (P : Payload) (temp cmd mode volSet volLevel fullPower : Nat) : Prop :=
  fieldValue P L.temp = temp ∧ fieldValue P L.cmd = cmd ∧ fieldValue P L.mode = mode
    ∧ fieldValue P L.volSet = volSet ∧ fieldValue P L.volLevel = volLevel
    ∧ fieldValue P L.fullPower = fullPower
    ∧ fieldValue P L.checksum = (checksum (clearField P L.checksum)).toNat
    ∧ ConstantBitsHold L P

/-- `t` is what a completed command leaves in the block: ST = DONE, a payload with the given command code and
full-power flag and the operands' fields, the output bytes of that payload, and the buffers of the stages at what
the stages left (40_commands.md R60, R62). The buffers' values are the model's own (log 6). -/
def CompletedAs (cmd fullPower : Nat) (tp : BitVec 6) (m v : BitVec 3) (t : State) : Prop :=
  t.st = .done ∧ (∃ r, t.results = some r
    ∧ PayloadHolds Config.layout r.payload (tp.toNat - 17) cmd m.toNat (if v = 0 then 0 else 1) v.toNat fullPower
    ∧ r.out = encodePayload r.payload ∧ t.pulse = frame r.payload)
    ∧ t.sample = (resample t.pulse).sample ∧ t.clk = (resample t.pulse).clk ∧ t.pos = (resample t.pulse).pos

/-- `t` is what a rejected command leaves of `s` in the block: ST = ERROR, no results, every buffer as it was
(60_exceptions.md R117). -/
def RejectedAs (s t : State) : Prop :=
  t.st = .error ∧ t.results = none ∧ t.pulse = s.pulse ∧ t.sample = s.sample ∧ t.clk = s.clk ∧ t.pos = s.pos

/-- The operand ranges of a valid command (30_encoding.md R48). -/
abbrev OperandsValid (tp : BitVec 6) (m v : BitVec 3) : Prop :=
  18 ≤ tp.toNat ∧ tp.toNat ≤ 32 ∧ m.toNat ≤ 3 ∧ v.toNat ≤ 3

/-- A byte string as the number its printed hexadecimal form denotes (30_encoding.md R58). -/
def printedValue (bs : List Byte) : Nat := bs.foldl (fun acc b => 256 * acc + b.toNat) 0

/-- A slot at or past the capacity belongs to a mark: a 1-sample is dropped (43_resampler_packer.md R107, R110). -/
def DropsOneSample (T : Vector Pulse Config.nPairs) : Prop :=
  ∃ k, ∃ h : k < Config.nPairs, ∃ i, Config.cap ≤ i
    ∧ startTime T k / 100 ≤ i ∧ i < (startTime T k + T[k].mark) / 100

/-- PAYLOAD and OUT hold a value exactly when ST = DONE (10_state.md R17). -/
abbrev ResultsWhenDone (s : State) : Prop := s.st = .done ↔ s.results.isSome = true

/-- The results held are those of one valid command, and PULSE, SAMPLE, CLK and POS are what its stages left
(40_commands.md R62, 20_memory.md R35). That the buffers stay so is the model's own (log 6). -/
def ResultsOfValidCommand (s : State) : Prop :=
  ∀ r, s.results = some r → ∃ p, valid p = true ∧ r = transform Config.layout p
    ∧ s.pulse = frame r.payload ∧ s.sample = (resample s.pulse).sample
    ∧ s.clk = (resample s.pulse).clk ∧ s.pos = (resample s.pulse).pos

/-- The invariant of the block: results exactly when DONE, and then those of one valid command. -/
def Inv (s : State) : Prop := ResultsWhenDone s ∧ ResultsOfValidCommand s

/-- Every duration in 13 bits, CLK in 18, POS in 12 (10_state.md R10, R14, R16). -/
def WidthsSuffice (s : State) : Prop :=
  (∀ q ∈ s.pulse.toList, q.mark < 2 ^ 13 ∧ q.space < 2 ^ 13) ∧ s.clk < 2 ^ 18 ∧ s.pos < 2 ^ 12

/-- Two states a host cannot tell apart: they agree on ST, PAYLOAD and OUT, on the events to come and on the
answers received; PULSE, SAMPLE, CLK and POS are not visible to the host (10_state.md R10, R22). -/
def SameToHost (s t : State) : Prop :=
  s.st = t.st ∧ s.results = t.results ∧ s.events = t.events ∧ s.answers = t.answers

/-- The same of two outcomes: both next states, and the host cannot tell them apart. -/
def SameOutcomeToHost : Host.Outcome State Fault Refusal → Host.Outcome State Fault Refusal → Prop
  | .next s, .next t => SameToHost s t
  | _, _ => False

end Sys2Proof.Machine
end

