-- ==== Sys2Proof/Certificates/Slice0/Obligations.lean ====
section
/-! DEFINITION. The statements about the block. Each docstring names the rules of spec/ it formalises, or the log
entry of notes/assumptions/ it rests on. -/

open Sys2Proof Sys2Proof.Machine

/-! ### Reset and the host's events -/

/-- R131: ST = 0 after reset, PAYLOAD and OUT hold no value. -/
def Obligations.ResetLeavesIdleWithoutResults : Prop :=
  State.reset.st = .idle ∧ statusCode State.reset.st = 0 ∧ State.reset.results = none

/-- R130: RESET may come in any state; ST becomes IDLE and the results are gone. -/
def Obligations.ResetEventFromAnyState : Prop :=
  ∀ (s : State) (rest : List HostEvent), s.events = .reset :: rest →
    ∃ t, step s = .next t ∧ t.st = .idle ∧ t.results = none

/-- The first clause is the step of a START: the decoded command runs, with the event taken. The second is log 7:
the word that withFetchWord presents runs in the very next step. -/
def Obligations.StepRunsDecodedCommand : Prop :=
  (∀ (s : State) (w : Word) (i : Instr) (rest : List HostEvent),
    s.events = .start w :: rest → decode w = .command i → step s = exec i (setEvents rest s)) ∧
  (∀ (s : State) (w : Word) (i : Instr),
    decode w = .command i → step (s.withFetchWord 16 w.toNat) = exec i s)

/-- R132, R144: between events the block does nothing. -/
def Obligations.NoEventNoChange : Prop :=
  ∀ s : State, s.events = [] → step s = .next s

/-- R141: the block can always accept another event. That a step never faults and is never refused is the model's
choice: InvalidParameters is a next state (log 5) and a refused read is an answer (log 4), where R115 names the one
as the fault and the other as the refusals. What a step does to the model's own fields is log 3: it takes the oldest
event, and adds at most one answer, at the end. -/
def Obligations.EveryEventAccepted : Prop :=
  ∀ s : State, ∃ t, step s = .next t ∧ t.events = s.events.tail
    ∧ (t.answers = s.answers ∨ ∃ a, t.answers = s.answers ++ [a])

/-- Log 3, the model's own fields: no command touches the host's pending events or the answers received. -/
def Obligations.CommandsKeepTheEnvironment : Prop :=
  ∀ (i : Instr) (s : State), ∃ t, exec i s = .next t ∧ t.events = s.events ∧ t.answers = s.answers

/-- R60: START is accepted in every state; a valid word leaves the transform's results and ST = DONE, an invalid
one raises InvalidParameters. -/
def Obligations.StartCompletesOrRejects : Prop :=
  ∀ (s : State) (w : Word) (rest : List HostEvent), s.events = .start w :: rest →
    (valid (paramsOfWord w) = true → ∃ t, step s = .next t ∧ t.st = .done
      ∧ t.results = some (transform Config.layout (paramsOfWord w))) ∧
    (valid (paramsOfWord w) = false → ∃ t, step s = .next t ∧ RejectedAs s t)

/-! ### Format P: validation, the command map, the encoder -/

/-- R61: the five conditions on the bits of the word; and a word is valid exactly when it matches one of the four
patterns of R48. -/
def Obligations.ValidWordsMatchAPattern : Prop :=
  ∀ w : Word,
    (valid (paramsOfWord w) = true ↔
      18 ≤ bits w.toNat 5 0 ∧ bits w.toNat 5 0 ≤ 32 ∧ bits w.toNat 8 6 ≤ 3 ∧ bits w.toNat 11 9 ≤ 3
        ∧ bits w.toNat 13 12 ≤ 1 ∧ (bits w.toNat 15 15 = 1 ∨ bits w.toNat 14 14 = 0)) ∧
    (valid (paramsOfWord w) = true ↔ ∃ r ∈ opRows, rowMatches r w = true)

/-- R48: the masks, the matches and the TEMP range select the four commands, and the patterns are pairwise
disjoint. -/
def Obligations.PatternsSelectTheCommands : Prop :=
  ∀ w : Word,
    ((∃ t m v, decode w = .command (.on t m v)) ↔
      w &&& 0xF900 = 0x1000 ∧ 18 ≤ bits w.toNat 5 0 ∧ bits w.toNat 5 0 ≤ 32) ∧
    ((∃ t m v, decode w = .command (.off t m v)) ↔
      w &&& 0xF900 = 0x0000 ∧ 18 ≤ bits w.toNat 5 0 ∧ bits w.toNat 5 0 ≤ 32) ∧
    ((∃ p t m v, decode w = .command (.fpon p t m v)) ↔
      w &&& 0xE900 = 0xC000 ∧ 18 ≤ bits w.toNat 5 0 ∧ bits w.toNat 5 0 ≤ 32) ∧
    ((∃ p t m v, decode w = .command (.fpoff p t m v)) ↔
      w &&& 0xE900 = 0x8000 ∧ 18 ≤ bits w.toNat 5 0 ∧ bits w.toNat 5 0 ≤ 32) ∧
    opRows.Pairwise (fun r r' => ¬ (w &&& r.mask = r.value ∧ w &&& r'.mask = r'.value))

/-- R49: the invalid words are exactly those with a field out of range or the reserved full-power combination, and
START with one of them raises InvalidParameters. -/
def Obligations.InvalidWordsAreRejected : Prop :=
  ∀ w : Word,
    (decode w = .invalidParameters ↔
      bits w.toNat 5 0 < 18 ∨ 32 < bits w.toNat 5 0 ∨ w.getLsbD 8 = true ∨ w.getLsbD 11 = true
        ∨ w.getLsbD 13 = true ∨ (w.getLsbD 15 = false ∧ w.getLsbD 14 = true)) ∧
    (decode w = .invalidParameters → ∀ (s : State) (rest : List HostEvent), s.events = .start w :: rest →
      ∃ t, step s = .next t ∧ t.st = .error)

/-- R116: of the 65536 words, 1440 are valid. -/
def Obligations.ValidWordsCount1440 : Prop :=
  (List.range 65536).countP (fun n => valid (paramsOfWord (BitVec.ofNat 16 n))) = 1440

/-- R56, R48: every well-formed command is the command its own word decodes to. -/
def Obligations.DecodeOfEncode : Prop :=
  ∀ i : Instr, i.wf = true → decode (encode i) = .command i

/-- R48, R50: a word that decodes to a command is the word of that command, whose operands are in range; so no two
words are the same command. -/
def Obligations.EncodeOfDecode : Prop :=
  ∀ (w : Word) (i : Instr), decode w = .command i → i.wf = true ∧ encode i = w

/-- R59: the worked encoding examples. -/
def Obligations.WorkedEncodingExamples : Prop :=
  decode 0x1018 = .command (.on 24 0 0) ∧ decode 0x0018 = .command (.off 24 0 0)
    ∧ decode 0x1252 = .command (.on 18 1 1) ∧ decode 0x16A0 = .command (.on 32 2 3)
    ∧ decode 0xC4DB = .command (.fpon 0 27 3 2) ∧ decode 0xD4DB = .command (.fpon 1 27 3 2)
    ∧ decode 0x94DB = .command (.fpoff 1 27 3 2) ∧ decode 0x8012 = .command (.fpoff 0 18 0 0)
    ∧ decode 0x1011 = .invalidParameters ∧ decode 0x1021 = .invalidParameters
    ∧ decode 0x1118 = .invalidParameters ∧ decode 0x1818 = .invalidParameters
    ∧ decode 0x2018 = .invalidParameters ∧ decode 0x5018 = .invalidParameters

/-! ### The four commands -/

/-- R63: ON. Its encoding; for every state and every operands in range it completes with CMD = 1 and FULLPOWER = 0;
its word with TEMP out of range raises InvalidParameters; the example, under REF. The clause of CompletedAs on PULSE,
SAMPLE, CLK and POS is log 6, the model's own. -/
def Obligations.OnStoresPlainPowerOn : Prop :=
  (∀ t m v, OperandsValid t m v →
    encode (.on t m v) &&& 0xF900 = 0x1000 ∧ decode (encode (.on t m v)) = .command (.on t m v)) ∧
  (∀ t m v (s : State), OperandsValid t m v →
    ∃ s', exec (.on t m v) s = .next s' ∧ CompletedAs 1 0 t m v s') ∧
  (∀ (t : BitVec 6) (m v : BitVec 3) (s : State) rest, (t.toNat < 18 ∨ 32 < t.toNat) → m.toNat ≤ 3 → v.toNat ≤ 3 →
    s.events = .start (encode (.on t m v)) :: rest →
    ∃ s', step s = .next s' ∧ RejectedAs s s') ∧
  (encode (.on 24 0 0) = 0x1018 ∧ ∀ s : State, ∃ s' r, exec (.on 24 0 0) s = .next s' ∧ s'.results = some r
    ∧ printedValue r.payload.toList = 0xaa5acf1007110000088000e041
    ∧ printedValue r.out.toList =
      0xffffffff7f00003ef800e0830f007cf800c0070f007cf001800f1f00f800c0870f007cf001c007003e00f001800f1f7c00e003000f3e78f0c103001f7cf8e003001f007800e0830f1f7cf8e003001f3ef8f001800f3e7cf0e1830f1f7cf8e0c3071f3ef8f0c1870f3e7cf0c1830f1e00f8e0c3071f3ef8f0c1070f3e78f001800f1f7cf8e0c3071f3cf8e0c1070f3ef800e003001f00f800c0870f3e7cf0e103001f7c <<< 616)

/-- R64: OFF. As ON, with CMD = 2; the word 0x0000 is invalid and 0x0012 is the smallest OFF word. The clause of
CompletedAs on PULSE, SAMPLE, CLK and POS is log 6, the model's own. -/
def Obligations.OffStoresPlainPowerOff : Prop :=
  (∀ t m v, OperandsValid t m v →
    encode (.off t m v) &&& 0xF900 = 0x0000 ∧ decode (encode (.off t m v)) = .command (.off t m v)) ∧
  (∀ t m v (s : State), OperandsValid t m v →
    ∃ s', exec (.off t m v) s = .next s' ∧ CompletedAs 2 0 t m v s') ∧
  (∀ (t : BitVec 6) (m v : BitVec 3) (s : State) rest, (t.toNat < 18 ∨ 32 < t.toNat) → m.toNat ≤ 3 → v.toNat ≤ 3 →
    s.events = .start (encode (.off t m v)) :: rest →
    ∃ s', step s = .next s' ∧ RejectedAs s s') ∧
  (decode 0x0000 = .invalidParameters ∧ decode 0x0012 = .command (.off 18 0 0) ∧
    ∀ w t m v, decode w = .command (.off t m v) → 0x0012 ≤ w.toNat) ∧
  (encode (.off 24 0 0) = 0x0018 ∧ ∀ s : State, ∃ s' r, exec (.off 24 0 0) s = .next s' ∧ s'.results = some r
    ∧ printedValue r.payload.toList = 0xaa5acf1007210000088000e071)

/-- R65: FPON. CMD = 6 and FULLPOWER = 1; POWER above 1 raises InvalidParameters although it is unused; the two
powers give the same results. The clause of CompletedAs on PULSE, SAMPLE, CLK and POS is log 6, the model's own. -/
def Obligations.FponStoresFullPowerOn : Prop :=
  (∀ (p : BitVec 2) t m v, p.toNat ≤ 1 → OperandsValid t m v →
    encode (.fpon p t m v) &&& 0xE900 = 0xC000 ∧ decode (encode (.fpon p t m v)) = .command (.fpon p t m v)) ∧
  (∀ (p : BitVec 2) t m v (s : State), p.toNat ≤ 1 → OperandsValid t m v →
    ∃ s', exec (.fpon p t m v) s = .next s' ∧ CompletedAs 6 1 t m v s') ∧
  (∀ (p : BitVec 2) (t : BitVec 6) (m v : BitVec 3) (s : State) rest,
    (1 < p.toNat ∨ t.toNat < 18 ∨ 32 < t.toNat) → m.toNat ≤ 3 → v.toNat ≤ 3 →
    s.events = .start (encode (.fpon p t m v)) :: rest →
    ∃ s', step s = .next s' ∧ RejectedAs s s') ∧
  (∀ t m v (s : State), OperandsValid t m v →
    ∃ a b, exec (.fpon 0 t m v) s = .next a ∧ exec (.fpon 1 t m v) s = .next b ∧ a.results = b.results) ∧
  (encode (.fpon 0 27 3 2) = 0xC4DB ∧ encode (.fpon 1 27 3 2) = 0xD4DB ∧ ∀ (p : BitVec 2), p.toNat ≤ 1 →
    ∀ s : State, ∃ s' r, exec (.fpon p 27 3 2) s = .next s' ∧ s'.results = some r
      ∧ printedValue r.payload.toList = 0xaa5acf100a615300088001e091)

/-- R66: FPOFF. CMD = 7, and FULLPOWER = 1 although the value is off: presence sets the flag. The clause of
CompletedAs on PULSE, SAMPLE, CLK and POS is log 6, the model's own. -/
def Obligations.FpoffStoresFullPowerOff : Prop :=
  (∀ (p : BitVec 2) t m v, p.toNat ≤ 1 → OperandsValid t m v →
    encode (.fpoff p t m v) &&& 0xE900 = 0x8000 ∧ decode (encode (.fpoff p t m v)) = .command (.fpoff p t m v)) ∧
  (∀ (p : BitVec 2) t m v (s : State), p.toNat ≤ 1 → OperandsValid t m v →
    ∃ s', exec (.fpoff p t m v) s = .next s' ∧ CompletedAs 7 1 t m v s') ∧
  (∀ (p : BitVec 2) (t : BitVec 6) (m v : BitVec 3) (s : State) rest,
    (1 < p.toNat ∨ t.toNat < 18 ∨ 32 < t.toNat) → m.toNat ≤ 3 → v.toNat ≤ 3 →
    s.events = .start (encode (.fpoff p t m v)) :: rest →
    ∃ s', step s = .next s' ∧ RejectedAs s s') ∧
  (encode (.fpoff 1 27 3 2) = 0x94DB ∧ ∀ s : State, ∃ s' r, exec (.fpoff 1 27 3 2) s = .next s'
    ∧ s'.results = some r ∧ printedValue r.payload.toList = 0xaa5acf100a715300088001e081)

/-- Log 8, the model's choice: a command term whose operands are out of range raises InvalidParameters, whichever
command it is, with the frame of R117. -/
def Obligations.IllFormedCommandRejected : Prop :=
  ∀ (i : Instr) (s : State), i.wf = false → ∃ t, exec i s = .next t ∧ RejectedAs s t

/-! ### The exception -/

/-- R117: ST becomes ERROR, PAYLOAD and OUT lose their values, and PULSE, SAMPLE, CLK and POS are not written; from
every state, whatever it held. -/
def Obligations.InvalidParametersEntry : Prop :=
  ∀ (s : State) (w : Word) (rest : List HostEvent), s.events = .start w :: rest → valid (paramsOfWord w) = false →
    ∃ t, step s = .next t ∧ t.st = .error ∧ t.results = none ∧ t.pulse = s.pulse ∧ t.sample = s.sample
      ∧ t.clk = s.clk ∧ t.pos = s.pos

/-- R120: ERROR is left only by a valid START or by RESET, an invalid START keeps it, and while it lasts ReadST
answers 2 and the two other reads are refused. What the results of the valid START are is
Obligations.StartCompletesOrRejects. -/
def Obligations.ErrorLeftByStartOrReset : Prop :=
  ∀ s : State, s.st = .error →
    (∀ t, step s = .next t → t.st ≠ .error →
      (∃ w rest, s.events = .start w :: rest ∧ valid (paramsOfWord w) = true ∧ t.st = .done) ∨
      (∃ rest, s.events = .reset :: rest ∧ t.st = .idle)) ∧
    (∀ w rest, s.events = .start w :: rest → valid (paramsOfWord w) = true → ∃ t, step s = .next t ∧ t.st = .done) ∧
    (∀ w rest, s.events = .start w :: rest → valid (paramsOfWord w) = false → ∃ t, step s = .next t ∧ t.st = .error) ∧
    (∀ rest, s.events = .reset :: rest → ∃ t, step s = .next t ∧ t.st = .idle) ∧
    readST s = .status 2 ∧ (∀ i, readPayload i s = .refused) ∧ (∀ j, readOut j s = .refused)

/-! ### Reads -/

/-- R69: ReadST returns ST in any state; ReadPayload and ReadOut return their byte when ST = DONE and are refused
when it is not, or when the index lies outside the space; a read changes no state of the block. The model records
the answer (log 3, log 4). -/
def Obligations.HostReads : Prop :=
  (∀ (s : State) rest, s.events = .readST :: rest →
    step s = .next { s with events := rest, answers := s.answers ++ [.status (statusCode s.st)] }) ∧
  (∀ (s : State) rest r i (h : i < 13), s.events = .readPayload i :: rest → s.st = .done → s.results = some r →
    step s = .next { s with events := rest, answers := s.answers ++ [.byte r.payload[i]] }) ∧
  (∀ (s : State) rest r j (h : j < 240), s.events = .readOut j :: rest → s.st = .done → s.results = some r →
    step s = .next { s with events := rest, answers := s.answers ++ [.byte r.out[j]] }) ∧
  (∀ (s : State) rest i, s.events = .readPayload i :: rest → (s.st ≠ .done ∨ 13 ≤ i) →
    step s = .next { s with events := rest, answers := s.answers ++ [.refused] }) ∧
  (∀ (s : State) rest j, s.events = .readOut j :: rest → (s.st ≠ .done ∨ 240 ≤ j) →
    step s = .next { s with events := rest, answers := s.answers ++ [.refused] })

/-- R11, R22, R135: nothing but START and RESET changes ST, PAYLOAD and OUT, or any buffer of the block, so
results stay readable until the next of them. -/
def Obligations.OnlyStartAndResetWriteTheBlock : Prop :=
  ∀ s t : State, step s = .next t →
    (∃ rest, s.events = .reset :: rest) ∨ (∃ w rest, s.events = .start w :: rest) ∨
    (t.st = s.st ∧ t.results = s.results ∧ t.pulse = s.pulse ∧ t.sample = s.sample ∧ t.clk = s.clk ∧ t.pos = s.pos)

/-! ### Determinism, isolation, invariants -/

/-- R67: the results of a valid START depend on its word alone, not on the state it found. The clauses on PULSE,
SAMPLE, CLK and POS are log 6, the model's own. -/
def Obligations.ResultsIndependentOfHistory : Prop :=
  ∀ (s s' : State) (w : Word) rest rest', s.events = .start w :: rest → s'.events = .start w :: rest' →
    valid (paramsOfWord w) = true →
    ∃ t t', step s = .next t ∧ step s' = .next t' ∧ t.st = t'.st ∧ t.results = t'.results ∧ t.pulse = t'.pulse
      ∧ t.sample = t'.sample ∧ t.clk = t'.clk ∧ t.pos = t'.pos

/-- R10, R22, R131: PULSE, SAMPLE, CLK and POS cannot be observed. Two states that differ in nothing else give, after
any number of steps, states the host cannot tell apart; so no answer rests on the reset values of log 2. -/
def Obligations.HostCannotSeeIntermediates : Prop :=
  ∀ (n : Nat) (s t : State), SameToHost s t →
    SameOutcomeToHost (Host.Core.run Sys2Proof.core n s) (Host.Core.run Sys2Proof.core n t)

/-- R17: the invariant of the block holds at reset. -/
def Obligations.BlockInvariantAtReset : Prop := Inv State.reset

/-- R17, R35, R62: from every state that meets it, every step keeps the invariant: PAYLOAD and OUT are present
exactly when ST = DONE, and are then the results of one valid command. The clause of Inv that PULSE, SAMPLE, CLK and
POS stay what the stages left while results are held is log 6, the model's own. -/
def Obligations.StepKeepsBlockInvariant : Prop :=
  ∀ s t : State, Inv s → step s = .next t → Inv t

/-- Log 2: the values the model gives the buffers at reset fit the widths of R10. -/
def Obligations.WidthsSufficeAtReset : Prop := WidthsSuffice State.reset

/-- R10, R14, R16: in every state a step leaves, 13 bits suffice for a duration, 18 for CLK, 12 for POS. That these
keep the stages' values between commands is log 6, the model's own. -/
def Obligations.StepKeepsWidths : Prop :=
  ∀ s t : State, WidthsSuffice s → step s = .next t → WidthsSuffice t

/-! ### The Payload Builder, for every well-formed LAYOUT -/

/-- R46: the value each variable field takes, read back from the payload. -/
def Obligations.FieldsReadBack : Prop :=
  ∀ (L : Layout) (w : Word), L.WellFormed → valid (paramsOfWord w) = true →
    let P := buildPayload L (paramsOfWord w)
    fieldValue P L.temp = bits w.toNat 5 0 - 17
      ∧ (1 ≤ fieldValue P L.temp ∧ fieldValue P L.temp ≤ 15)
      ∧ fieldValue P L.cmd = (if bits w.toNat 15 15 = 0 then (if bits w.toNat 13 12 = 1 then 1 else 2)
          else (if bits w.toNat 14 14 = 1 then 6 else 7))
      ∧ fieldValue P L.mode = bits w.toNat 8 6
      ∧ fieldValue P L.volSet = (if bits w.toNat 11 9 = 0 then 0 else 1)
      ∧ fieldValue P L.volLevel = (if bits w.toNat 11 9 = 1 then 1 else bits w.toNat 11 9)
      ∧ fieldValue P L.fullPower = bits w.toNat 15 15
      ∧ fieldValue P L.checksum = (checksum (clearField P L.checksum)).toNat

/-- R18: every bit outside the seven variable fields holds BASE's value, whatever the parameters. -/
def Obligations.ConstantBitsNeverVary : Prop :=
  ∀ (L : Layout) (p : Params), L.WellFormed → valid p = true → ConstantBitsHold L (buildPayload L p)

/-- R83: the self-check, with the checksum's own field set to zero; and without zeroing it when the field lies in
nibbles outside the range. -/
def Obligations.ChecksumSelfCheck : Prop :=
  ∀ (L : Layout) (p : Params), L.WellFormed → valid p = true →
    (checksum (clearField (buildPayload L p) L.checksum)).toNat = fieldValue (buildPayload L p) L.checksum ∧
    (2 * L.checksum.byte.val + L.checksum.off / 4 ∉ checksumRange →
      (checksum (buildPayload L p)).toNat = fieldValue (buildPayload L p) L.checksum)

/-- R45: the closed form of the payload, byte by byte: BASE and the fields of that byte. -/
def Obligations.PayloadClosedForm : Prop :=
  ∀ (L : Layout) (p : Params) (i : Fin 13), L.WellFormed → valid p = true →
    (buildPayload L p)[i] =
      ([(L.temp, tempField p), (L.cmd, cmdCode p), (L.mode, modeField p), (L.volSet, volSet p),
        (L.volLevel, volLevel p), (L.fullPower, fullPowerFlag p),
        (L.checksum, (checksum (payloadBeforeChecksum L p)).toNat)] : List (FieldPos × Nat)).foldl
        (fun acc fv => if fv.1.byte = i then acc ||| BitVec.ofNat 8 (fv.2 <<< fv.1.off) else acc) (L.base[i])

/-- R85 (f): two valid words with one payload have the same TEMP, MODE and VOL and are the same command, up to the
unused POWER. -/
def Obligations.PayloadDeterminesCommand : Prop :=
  ∀ (L : Layout) (p q : Params), L.WellFormed → valid p = true → valid q = true →
    buildPayload L p = buildPayload L q →
    p.temp = q.temp ∧ p.mode = q.mode ∧ p.vol = q.vol ∧ p.fpv = q.fpv ∧ p.fp = q.fp
      ∧ (p.fpv = false → p.power = q.power)

/-- R80 (its linearity): flipping one bit of nibble `n` flips the same bit of the checksum when `n` is in the range
and changes nothing when it is not. -/
def Obligations.ChecksumFollowsEachBit : Prop :=
  ∀ (P : Payload) (i : Fin 13) (b : Nat), b < 8 →
    checksum (P.set i (P[i] ^^^ BitVec.twoPow 8 b)) =
      checksum P ^^^ (if 5 ≤ 2 * i.val + b / 4 ∧ 2 * i.val + b / 4 ≤ 23 then BitVec.twoPow 4 (b % 4) else 0)

/-- R44: REF is well formed, and its constants are those of the table. -/
def Obligations.ReferenceLayoutWellFormed : Prop :=
  Config.ref.WellFormed ∧ printedValue Config.ref.base.toList = 0xAA5ACF1000010000088000E001
    ∧ Config.ref.temp = ⟨4, 0, 4⟩ ∧ Config.ref.cmd = ⟨5, 4, 4⟩ ∧ Config.ref.mode = ⟨6, 0, 2⟩
    ∧ Config.ref.volSet = ⟨6, 4, 1⟩ ∧ Config.ref.volLevel = ⟨6, 5, 2⟩ ∧ Config.ref.fullPower = ⟨10, 0, 1⟩
    ∧ Config.ref.checksum = ⟨12, 4, 4⟩

/-! ### Framing -/

/-- R51: the 106 pairs of the frame of any 13 bytes. -/
def Obligations.FrameOfAnyPayload : Prop :=
  ∀ P : Payload,
    (frame P)[0] = ⟨3904, 1856⟩ ∧ (frame P)[105] = ⟨488, 8000⟩ ∧
    ∀ d < 104, (frame P)[1 + d]? = some ⟨488, if (byteAt P (d / 8)).getLsbD (d % 8) then 1392 else 464⟩

/-- R96: the length of the frame, and its bounds. -/
def Obligations.FrameDuration : Prop :=
  ∀ P : Payload, totalDuration (frame P) = 113256 + 928 * oneBits P ∧ 113256 ≤ totalDuration (frame P)
    ∧ totalDuration (frame P) ≤ 209768
    ∧ startTime (frame P) 105 + 488 = 105256 + 928 * oneBits P

/-! ### The resampler and the packer -/

/-- R104: the bounded store: the slot written holds the value, every other slot is as before, and at or above CAP
nothing happens. -/
def Obligations.BoundedSampleStore : Prop :=
  ∀ (S : BitVec 1920) (i : Nat) (v : Bool),
    (1920 ≤ i → sampleWrite S i v = S) ∧
    (i < 1920 → ∀ k, (sampleWrite S i v).getLsbD k = if k = i then v else S.getLsbD k)

/-- R103: a fill writes the slots POS to e - 1 that exist, no other, and leaves POS = e; when e is not above POS it
writes nothing. -/
def Obligations.FillIsHalfOpen : Prop :=
  ∀ (g : Grid) (e : Nat) (v : Bool),
    (fill e v g).pos = max g.pos e ∧ (fill e v g).clk = g.clk ∧
    ∀ k, k < 1920 → (fill e v g).sample.getLsbD k = if g.pos ≤ k ∧ k < e then v else g.sample.getLsbD k

/-- R106: for every pulse train, CLK ends at the sum of all durations and POS at the floor of that sum over 100: the
remainders carry. -/
def Obligations.FinalClockAndPosition : Prop :=
  ∀ T : Vector Pulse 106, (resample T).clk = totalDuration T ∧ (resample T).pos = totalDuration T / 100

/-- R107: the closed form of SAMPLE, for every pulse train: a slot is 1 exactly when it lies between the floors of
the two ends of some mark. -/
def Obligations.ResampleClosedForm : Prop :=
  ∀ (T : Vector Pulse 106) (i : Nat), i < 1920 →
    ((resample T).sample.getLsbD i = true ↔
      ∃ k, ∃ h : k < 106, startTime T k / 100 ≤ i ∧ i < (startTime T k + T[k].mark) / 100)

/-- R108: the final CLK and POS of the frame of any 13 bytes, and their bounds. -/
def Obligations.FrameClockBounds : Prop :=
  ∀ P : Payload,
    (resample (frame P)).clk = 113256 + 928 * oneBits P ∧ (resample (frame P)).clk ≤ 209768
      ∧ (resample (frame P)).clk < 2 ^ 18
      ∧ (resample (frame P)).pos = (113256 + 928 * oneBits P) / 100 ∧ (resample (frame P)).pos ≤ 2097
      ∧ (resample (frame P)).pos < 2 ^ 12 ∧ 1132 ≤ (resample (frame P)).pos

/-- R109: over any pair CLK and POS do not decrease, and a slot below POS is never written again. -/
def Obligations.ResamplerOnlyExtendsForward : Prop :=
  ∀ (g : Grid) (q : Pulse),
    g.clk ≤ (pairStep g q).clk ∧ g.pos ≤ (pairStep g q).pos
      ∧ ∀ k, k < g.pos → (pairStep g q).sample.getLsbD k = g.sample.getLsbD k

/-- R110: when slots are dropped, when a 1-sample is, and when nothing is, by the number of 1 bits. -/
def Obligations.TruncationByOneBits : Prop :=
  ∀ P : Payload,
    (1920 < (resample (frame P)).pos ↔ 85 ≤ oneBits P)
      ∧ (DropsOneSample (frame P) ↔ 94 ≤ oneBits P)
      ∧ ((resample (frame P)).pos ≤ 1920 ↔ oneBits P ≤ 84)

/-- R85, R110, under REF: a valid command has between 25 and 39 one bits in its payload, so it ends with POS between
1364 and 1494 and nothing is dropped. -/
def Obligations.NoTruncationUnderReference : Prop :=
  ∀ p : Params, valid p = true →
    25 ≤ oneBits (buildPayload Config.ref p) ∧ oneBits (buildPayload Config.ref p) ≤ 39
      ∧ 1364 ≤ (resample (frame (buildPayload Config.ref p))).pos
      ∧ (resample (frame (buildPayload Config.ref p))).pos ≤ 1494

/-- R29: output byte `j` holds samples `8j` to `8j + 7`, the earliest in bit 0, for every sample sequence. -/
def Obligations.PackKeepsEverySample : Prop :=
  ∀ (S : BitVec 1920) (j : Nat) (h : j < 240) (b : Nat), b < 8 →
    ((pack S)[j]).getLsbD b = S.getLsbD (8 * j + b)

/-- R112: the bytes past the end of the frame are 0x00. -/
def Obligations.BytesPastTheFrameAreZero : Prop :=
  ∀ (P : Payload) (j : Nat) (h : j < 240), (resample (frame P)).pos ≤ 8 * j → (encodePayload P)[j] = 0

/-- R91, R103, R111 together: the output of every payload begins with the leader: 39 ones, then 18 zeros. -/
def Obligations.EveryOutputBeginsWithTheLeader : Prop :=
  ∀ P : Payload,
    (encodePayload P).toList.take 7 = [0xFF, 0xFF, 0xFF, 0xFF, 0x7F, 0x00, 0x00]
      ∧ ((encodePayload P)[7]).getLsbD 0 = false

/-! ### The front end -/

/-- R55: a flag line with numbers that fit has the word of its fields; one that lacks a required flag or gives a
number that does not fit has none. -/
def Obligations.FlagLineWord : Prop :=
  (∀ p t m v : Nat, p < 4 → t < 64 → m < 8 → v < 8 →
    flagWord ⟨some p, some t, some m, some v, none⟩ = some (BitVec.ofNat 16 (t + 64 * m + 512 * v + 4096 * p)) ∧
    ∀ f, f < 2 → flagWord ⟨some p, some t, some m, some v, some f⟩ =
      some (BitVec.ofNat 16 (t + 64 * m + 512 * v + 4096 * p + 16384 * f + 32768))) ∧
  (∀ l : FlagLine, (l.power = none ∨ l.temp = none ∨ l.mode = none ∨ l.vol = none) → flagWord l = none) ∧
  (∀ (l : FlagLine) (n : Nat), (l.power = some n ∧ 4 ≤ n) ∨ (l.temp = some n ∧ 64 ≤ n) ∨ (l.mode = some n ∧ 8 ≤ n)
    ∨ (l.vol = some n ∧ 8 ≤ n) ∨ (l.fullPower = some n ∧ 2 ≤ n) → flagWord l = none)
end

