-- ==== Sys2Proof/Laws/Encoding.lean ====
section
/-! SUPPORT. Format P: a word and its fields determine each other, what each row of the command map fixes, and the
decoder in terms of the fields. -/

namespace Sys2Proof

/-! ### The word and its fields -/

theorem paramsOfWord_wordOfParams (p : Params) : paramsOfWord (wordOfParams p) = p := by
  obtain ⟨t, m, v, pw, fp, fpv⟩ := p
  simp only [paramsOfWord, wordOfParams, Params.mk.injEq]
  refine ⟨?_, ?_, ?_, ?_, ?_, ?_⟩
  · refine BitVec.eq_of_getLsbD_eq fun i hi => ?_
    interval_cases i <;> simp
  · refine BitVec.eq_of_getLsbD_eq fun i hi => ?_
    interval_cases i <;> simp
  · refine BitVec.eq_of_getLsbD_eq fun i hi => ?_
    interval_cases i <;> simp
  · refine BitVec.eq_of_getLsbD_eq fun i hi => ?_
    interval_cases i <;> simp
  · simp
  · simp

theorem wordOfParams_paramsOfWord (w : Word) : wordOfParams (paramsOfWord w) = w := by
  refine BitVec.eq_of_getLsbD_eq fun i hi => ?_
  simp only [paramsOfWord, wordOfParams]
  interval_cases i <;> simp

/-! ### A field in range is a bit that is clear -/

theorem three_bits_le_three_iff (m : BitVec 3) : m.toNat ≤ 3 ↔ m.getLsbD 2 = false := by
  revert m; decide

theorem two_bits_le_one_iff (p : BitVec 2) : p.toNat ≤ 1 ↔ p.getLsbD 1 = false := by
  revert p; decide

theorem two_bits_eq_one_iff (p : BitVec 2) : p.toNat = 1 ↔ p.getLsbD 1 = false ∧ p.getLsbD 0 = true := by
  revert p; decide

theorem two_bits_eq_zero_iff (p : BitVec 2) : p.toNat = 0 ↔ p.getLsbD 1 = false ∧ p.getLsbD 0 = false := by
  revert p; decide

/-! ### The rows of the command map -/

/-- A masked word is a value exactly when it is so bit by bit. -/
theorem masked_eq_iff (w m v : Word) :
    w &&& m = v ↔ ∀ i < 16, (w.getLsbD i && m.getLsbD i) = v.getLsbD i := by
  constructor
  · rintro rfl i _
    simp
  · intro h
    refine BitVec.eq_of_getLsbD_eq fun i hi => ?_
    simpa using h i hi

theorem forall_lt_sixteen (Q : Nat → Prop) :
    (∀ i < 16, Q i) ↔ Q 0 ∧ Q 1 ∧ Q 2 ∧ Q 3 ∧ Q 4 ∧ Q 5 ∧ Q 6 ∧ Q 7 ∧ Q 8 ∧ Q 9 ∧ Q 10 ∧ Q 11 ∧ Q 12 ∧ Q 13
      ∧ Q 14 ∧ Q 15 := by
  constructor
  · intro h
    refine ⟨?_, ?_, ?_, ?_, ?_, ?_, ?_, ?_, ?_, ?_, ?_, ?_, ?_, ?_, ?_, ?_⟩ <;> exact h _ (by omega)
  · rintro ⟨h0, h1, h2, h3, h4, h5, h6, h7, h8, h9, h10, h11, h12, h13, h14, h15⟩ i hi
    interval_cases i <;> assumption

theorem rowOn_masked_iff (w : Word) :
    w &&& rowOn.mask = rowOn.value ↔ (paramsOfWord w).mode.toNat ≤ 3 ∧ (paramsOfWord w).vol.toNat ≤ 3
      ∧ (paramsOfWord w).power.toNat = 1 ∧ (paramsOfWord w).fp = false ∧ (paramsOfWord w).fpv = false := by
  rw [masked_eq_iff, three_bits_le_three_iff, three_bits_le_three_iff, two_bits_eq_one_iff]
  simp [forall_lt_sixteen, paramsOfWord, rowOn]
  tauto

theorem rowOff_masked_iff (w : Word) :
    w &&& rowOff.mask = rowOff.value ↔ (paramsOfWord w).mode.toNat ≤ 3 ∧ (paramsOfWord w).vol.toNat ≤ 3
      ∧ (paramsOfWord w).power.toNat = 0 ∧ (paramsOfWord w).fp = false ∧ (paramsOfWord w).fpv = false := by
  rw [masked_eq_iff, three_bits_le_three_iff, three_bits_le_three_iff, two_bits_eq_zero_iff]
  simp [forall_lt_sixteen, paramsOfWord, rowOff]
  tauto

theorem rowFpon_masked_iff (w : Word) :
    w &&& rowFpon.mask = rowFpon.value ↔ (paramsOfWord w).mode.toNat ≤ 3 ∧ (paramsOfWord w).vol.toNat ≤ 3
      ∧ (paramsOfWord w).power.toNat ≤ 1 ∧ (paramsOfWord w).fp = true ∧ (paramsOfWord w).fpv = true := by
  rw [masked_eq_iff, three_bits_le_three_iff, three_bits_le_three_iff, two_bits_le_one_iff]
  simp [forall_lt_sixteen, paramsOfWord, rowFpon]

theorem rowFpoff_masked_iff (w : Word) :
    w &&& rowFpoff.mask = rowFpoff.value ↔ (paramsOfWord w).mode.toNat ≤ 3 ∧ (paramsOfWord w).vol.toNat ≤ 3
      ∧ (paramsOfWord w).power.toNat ≤ 1 ∧ (paramsOfWord w).fp = false ∧ (paramsOfWord w).fpv = true := by
  rw [masked_eq_iff, three_bits_le_three_iff, three_bits_le_three_iff, two_bits_le_one_iff]
  simp [forall_lt_sixteen, paramsOfWord, rowFpoff]

theorem rowMatches_iff (r : OpRow) (w : Word) :
    rowMatches r w = true ↔
      w &&& r.mask = r.value ∧ 18 ≤ (paramsOfWord w).temp.toNat ∧ (paramsOfWord w).temp.toNat ≤ 32 := by
  simp [rowMatches, and_assoc]

/-! ### The decoder and the encoder -/

/-- The command that valid parameters are (30_encoding.md R47). -/
def commandOf (p : Params) : Instr :=
  if p.fpv then (if p.fp then .fpon p.power p.temp p.mode p.vol else .fpoff p.power p.temp p.mode p.vol)
  else (if p.power = 1 then .on p.temp p.mode p.vol else .off p.temp p.mode p.vol)

theorem power_eq_one_iff (p : BitVec 2) : p = 1 ↔ p.toNat = 1 := by
  revert p; decide

theorem power_cases (p : BitVec 2) (h : p.toNat ≤ 1) : p = 0 ∨ p = 1 := by
  revert p; decide

theorem valid_iff (p : Params) :
    Machine.valid p = true ↔ 18 ≤ p.temp.toNat ∧ p.temp.toNat ≤ 32 ∧ p.mode.toNat ≤ 3 ∧ p.vol.toNat ≤ 3
      ∧ p.power.toNat ≤ 1 ∧ (p.fpv = true ∨ p.fp = false) := by
  simp [Machine.valid, and_assoc]

/-- A command's parameters are valid exactly when its operands are in range. -/
theorem valid_instrParams (i : Instr) : Machine.valid (instrParams i) = i.wf := by
  rw [Bool.eq_iff_iff, valid_iff]
  cases i <;> simp [instrParams, Instr.wf, operandsInRange] <;> tauto

/-- The decoder in terms of the fields: a valid word is its command, any other word is invalid. -/
theorem decode_spec (w : Word) :
    decode w = if Machine.valid (paramsOfWord w) then .command (commandOf (paramsOfWord w))
      else .invalidParameters := by
  have hv := valid_iff (paramsOfWord w)
  have h1 := rowMatches_iff rowOn w
  have h2 := rowMatches_iff rowOff w
  have h3 := rowMatches_iff rowFpon w
  have h4 := rowMatches_iff rowFpoff w
  rw [rowOn_masked_iff] at h1
  rw [rowOff_masked_iff] at h2
  rw [rowFpon_masked_iff] at h3
  rw [rowFpoff_masked_iff] at h4
  simp only [decode, commandOf, power_eq_one_iff]
  generalize paramsOfWord w = p at *
  obtain ⟨t, m, v, pw, fp, fpv⟩ := p
  have hp : pw.toNat ≤ 1 ↔ pw.toNat = 0 ∨ pw.toNat = 1 := by omega
  cases fp <;> cases fpv <;> simp_all <;> grind

end Sys2Proof
end

