-- ==== Sys2Proof/Laws/Sizes.lean ====
section
/-! SUPPORT. The sizes of 00_scope.md R5 as numbers. -/

namespace Sys2Proof.Config

@[simp] theorem nPayload_eq : nPayload = 13 := rfl

@[simp] theorem nBits_eq : nBits = 104 := rfl

@[simp] theorem nPairs_eq : nPairs = 106 := rfl

@[simp] theorem nOut_eq : nOut = 240 := rfl

@[simp] theorem cap_eq : cap = 1920 := rfl

end Sys2Proof.Config
end

