-- ==== Sys2Proof/Laws/Builder.lean ====
section
/-! SUPPORT. The byte, bit and nibble views of a payload, and what Put does to each. -/

namespace Sys2Proof.Machine

theorem byteAt_of_lt (P : Payload) {i : Nat} (h : i < 13) : byteAt P i = P[i] := by
  simp [byteAt, h]

theorem byteAt_of_ge (P : Payload) {i : Nat} (h : 13 ≤ i) : byteAt P i = 0 := by
  simp [byteAt, h]

theorem byteAt_fin (P : Payload) (i : Fin 13) : byteAt P i.val = P[i] := byteAt_of_lt P i.isLt

/-- A payload is its 13 bytes. -/
theorem payload_ext {P Q : Payload} (h : ∀ i < 13, byteAt P i = byteAt Q i) : P = Q := by
  apply Vector.ext
  intro i hi
  have := h i hi
  rwa [byteAt_of_lt P hi, byteAt_of_lt Q hi] at this

theorem byteAt_set (P : Payload) (f : Fin 13) (x : Byte) (i : Nat) :
    byteAt (P.set f x) i = if f.val = i then x else byteAt P i := by
  by_cases h : i < 13
  · simp [byteAt, h, Vector.getElem_set]
  · have : f.val ≠ i := by omega
    rw [byteAt_of_ge _ (by omega), byteAt_of_ge _ (by omega), if_neg this]

theorem byteAt_put (P : Payload) (f : FieldPos) (v i : Nat) :
    byteAt (put P f v) i = if f.byte.val = i then byteAt P i ||| BitVec.ofNat 8 (v <<< f.off) else byteAt P i := by
  unfold put
  rw [byteAt_set]
  split
  · next h => subst h; rw [byteAt_fin]
  · rfl

/-- Bit `b` of byte `i` after a Put: the bit of the value inside the field's bits, unchanged below the field. -/
theorem getLsbD_byteAt_put (P : Payload) (f : FieldPos) (v i b : Nat) (hb : b < 8) :
    (byteAt (put P f v) i).getLsbD b =
      ((byteAt P i).getLsbD b || (decide (f.byte.val = i) && decide (f.off ≤ b) && v.testBit (b - f.off))) := by
  rw [byteAt_put]
  by_cases h : f.byte.val = i
  · rw [if_pos h, BitVec.getLsbD_or, BitVec.getLsbD_ofNat, Nat.testBit_shiftLeft]
    simp [h, hb]
  · simp [h]

theorem testBit_of_lt_two_pow {v w k : Nat} (hv : v < 2 ^ w) (hk : w ≤ k) : v.testBit k = false :=
  Nat.testBit_lt_two_pow (lt_of_lt_of_le hv (Nat.pow_le_pow_right (by omega) hk))

/-- A Put of a value that fits leaves every bit outside the field as it was. -/
theorem getLsbD_byteAt_put_outside (P : Payload) (f : FieldPos) (v i b : Nat) (hv : v < 2 ^ f.width)
    (h : f.hasBit i b = false) (hb : b < 8) :
    (byteAt (put P f v) i).getLsbD b = (byteAt P i).getLsbD b := by
  rw [getLsbD_byteAt_put _ _ _ _ _ hb]
  by_cases h1 : f.byte.val = i
  · by_cases h2 : f.off ≤ b
    · have h3 : f.width ≤ b - f.off := by
        simp [FieldPos.hasBit, h1, h2] at h
        omega
      simp [testBit_of_lt_two_pow hv h3]
    · simp [h2]
  · simp [h1]

/-- The bits of a field's value are the payload's bits at the field's place. -/
theorem testBit_fieldValue (P : Payload) (f : FieldPos) (h1 : 1 ≤ f.width) (k : Nat) :
    (fieldValue P f).testBit k = (decide (k < f.width) && (byteAt P f.byte).getLsbD (f.off + k)) := by
  have : f.off + f.width - 1 - f.off + 1 = f.width := by omega
  simp only [fieldValue, bits, this, byteAt_fin]
  rw [Nat.testBit_mod_two_pow, ← Nat.shiftRight_eq_div_pow, Nat.testBit_shiftRight]
  rfl

/-- Put into a field that is zero: the field reads back the value. -/
theorem fieldValue_put_self (P : Payload) (f : FieldPos) (v : Nat) (hw : 1 ≤ f.width) (ho : f.off + f.width ≤ 8)
    (hv : v < 2 ^ f.width) (hz : fieldValue P f = 0) : fieldValue (put P f v) f = v := by
  apply Nat.eq_of_testBit_eq
  intro k
  have hzk : (fieldValue P f).testBit k = false := by simp [hz]
  rw [testBit_fieldValue _ _ hw] at hzk
  rw [testBit_fieldValue _ _ hw]
  by_cases hk : k < f.width
  · rw [getLsbD_byteAt_put _ _ _ _ _ (by omega)]
    simp only [hk, decide_true, Bool.true_and] at hzk
    simp [hk, hzk]
  · simp [hk, testBit_of_lt_two_pow hv (by omega : f.width ≤ k)]

/-- A bit of one field is no bit of a field disjoint from it. -/
theorem hasBit_of_disjoint {f g : FieldPos} (h : Layout.Disjoint f g) {k : Nat} (hk : k < f.width) :
    g.hasBit f.byte (f.off + k) = false := by
  unfold FieldPos.hasBit
  rcases h with h | h | h
  · have : g.byte.val ≠ f.byte.val := fun e => h (Fin.ext e.symm)
    simp [this]
  · simp; omega
  · simp; omega

/-- Put into a field leaves a disjoint field's value as it was. -/
theorem fieldValue_put_other (P : Payload) (f g : FieldPos) (v : Nat) (hw : 1 ≤ f.width) (ho : f.off + f.width ≤ 8)
    (hd : Layout.Disjoint f g) (hv : v < 2 ^ g.width) : fieldValue (put P g v) f = fieldValue P f := by
  apply Nat.eq_of_testBit_eq
  intro k
  rw [testBit_fieldValue _ _ hw, testBit_fieldValue _ _ hw]
  by_cases hk : k < f.width
  · rw [getLsbD_byteAt_put_outside _ _ _ _ _ hv (hasBit_of_disjoint hd hk) (by omega)]
  · simp [hk]

/-- Two fields are disjoint in either order. -/
theorem disjoint_symm {f g : FieldPos} (h : Layout.Disjoint f g) : Layout.Disjoint g f := by
  rcases h with h | h | h
  · exact .inl (Ne.symm h)
  · exact .inr (.inr h)
  · exact .inr (.inl h)

/-- BASE holds zero in every field of a well-formed LAYOUT (30_encoding.md R43, W4). -/
theorem fieldValue_base {L : Layout} (h : L.WellFormed) {f : FieldPos} (hf : f ∈ L.fields) :
    fieldValue L.base f = 0 := by
  apply Nat.eq_of_testBit_eq
  intro k
  rw [testBit_fieldValue _ _ (h.1 f hf).1]
  by_cases hk : k < f.width
  · rw [byteAt_fin, h.2.2.2 f hf k hk]; simp
  · simp [hk]

/-- The bits of nibble `n` (20_memory.md R31). -/
theorem getLsbD_nibble (P : Payload) (n b : Nat) (hb : b < 4) :
    (nibble P n).getLsbD b = (byteAt P (n / 2)).getLsbD (4 * (n % 2) + b) := by
  simp [nibble, hb]

/-- The checksum bit by bit: the XOR over the range of that bit of each nibble. -/
theorem getLsbD_foldl_xor (P : Payload) (b : Nat) (l : List Nat) (a : Nibble) :
    (l.foldl (fun acc n => acc ^^^ nibble P n) a).getLsbD b =
      l.foldl (fun acc n => acc ^^ (nibble P n).getLsbD b) (a.getLsbD b) := by
  induction l generalizing a with
  | nil => rfl
  | cons n l ih => simp [ih]

/-- The checksum sees nothing but the nibbles of its range. -/
theorem checksum_congr {P Q : Payload} (h : ∀ n ∈ checksumRange, nibble P n = nibble Q n) :
    checksum P = checksum Q := by
  unfold checksum
  generalize (0 : Nibble) = a
  revert h
  generalize checksumRange = l
  intro h
  induction l generalizing a with
  | nil => rfl
  | cons n l ih =>
    rw [List.foldl_cons, List.foldl_cons, h n (by simp)]
    exact ih _ fun m hm => h m (by simp [hm])

theorem mem_checksumRange (n : Nat) : n ∈ checksumRange ↔ Config.ckFirst ≤ n ∧ n ≤ Config.ckLast := by
  simp only [checksumRange, List.mem_range'_1, Config.ckFirst, Config.ckLast]
  omega

/-! ### The values the rules store fit their fields -/

theorem fits_of_width {v w n : Nat} (hv : v < 2 ^ n) (hw : n ≤ w) : v < 2 ^ w :=
  lt_of_lt_of_le hv (Nat.pow_le_pow_right (by omega) hw)

theorem cmdCode_lt (p : Params) : cmdCode p < 8 := by
  unfold cmdCode; split <;> split <;> decide

theorem volSet_lt (p : Params) : volSet p < 2 := by
  unfold volSet; split <;> decide

theorem fullPowerFlag_lt (p : Params) : fullPowerFlag p < 2 := by
  unfold fullPowerFlag; split <;> decide

theorem volLevel_eq (p : Params) : volLevel p = p.vol.toNat := by
  unfold volLevel; split <;> simp_all

/-- Every value the builder puts fits its field, for valid parameters and a well-formed LAYOUT (30_encoding.md
R43, W2; R45). -/
theorem values_fit {L : Layout} (hL : L.WellFormed) {p : Params} (hp : valid p = true) :
    tempField p < 2 ^ L.temp.width ∧ cmdCode p < 2 ^ L.cmd.width ∧ modeField p < 2 ^ L.mode.width
      ∧ volSet p < 2 ^ L.volSet.width ∧ volLevel p < 2 ^ L.volLevel.width
      ∧ fullPowerFlag p < 2 ^ L.fullPower.width := by
  obtain ⟨h1, h2, h3, h4, h5, h6, -, -⟩ := hL.2.1
  rw [valid_iff] at hp
  refine ⟨fits_of_width (n := 4) ?_ h1, fits_of_width (n := 3) (cmdCode_lt p) h2, fits_of_width (n := 2) ?_ h3,
    ?_, fits_of_width (n := 2) ?_ h5, ?_⟩
  · simp only [tempField, Config.tempBias]; omega
  · simp only [modeField]; omega
  · rw [h4]; exact volSet_lt p
  · rw [volLevel_eq]; omega
  · rw [h6]; exact fullPowerFlag_lt p

theorem checksum_fits {L : Layout} (hL : L.WellFormed) (P : Payload) :
    (checksum P).toNat < 2 ^ L.checksum.width := by
  obtain ⟨-, -, -, -, -, -, h, -⟩ := hL.2.1
  rw [h]
  exact (checksum P).isLt

/-- The fields of a well-formed LAYOUT are pairwise disjoint, pair by pair (30_encoding.md R43, W3). -/
theorem fields_disjoint {L : Layout} (hL : L.WellFormed) :
    (Layout.Disjoint L.temp L.cmd ∧ Layout.Disjoint L.temp L.mode ∧ Layout.Disjoint L.temp L.volSet
      ∧ Layout.Disjoint L.temp L.volLevel ∧ Layout.Disjoint L.temp L.fullPower ∧ Layout.Disjoint L.temp L.checksum)
    ∧ (Layout.Disjoint L.cmd L.mode ∧ Layout.Disjoint L.cmd L.volSet ∧ Layout.Disjoint L.cmd L.volLevel
      ∧ Layout.Disjoint L.cmd L.fullPower ∧ Layout.Disjoint L.cmd L.checksum)
    ∧ (Layout.Disjoint L.mode L.volSet ∧ Layout.Disjoint L.mode L.volLevel ∧ Layout.Disjoint L.mode L.fullPower
      ∧ Layout.Disjoint L.mode L.checksum)
    ∧ (Layout.Disjoint L.volSet L.volLevel ∧ Layout.Disjoint L.volSet L.fullPower
      ∧ Layout.Disjoint L.volSet L.checksum)
    ∧ (Layout.Disjoint L.volLevel L.fullPower ∧ Layout.Disjoint L.volLevel L.checksum)
    ∧ Layout.Disjoint L.fullPower L.checksum := by
  have h := hL.2.2.1
  simp only [Layout.W3, Layout.fields, List.pairwise_cons, List.forall_mem_cons, List.not_mem_nil, false_implies,
    implies_true, and_true, List.Pairwise.nil] at h
  exact h

end Sys2Proof.Machine
end

