-- ==== Sys2Proof/Laws/State.lean ====
section
/-! SUPPORT. One lemma per field per update of the state, and the two ways to put pending events back. -/

namespace Sys2Proof.Machine

/-! Taking an event. -/

@[simp] theorem setEvents_st (es : List HostEvent) (s : State) : (setEvents es s).st = s.st := rfl
@[simp] theorem setEvents_results (es : List HostEvent) (s : State) :
    (setEvents es s).results = s.results := rfl
@[simp] theorem setEvents_pulse (es : List HostEvent) (s : State) : (setEvents es s).pulse = s.pulse := rfl
@[simp] theorem setEvents_sample (es : List HostEvent) (s : State) : (setEvents es s).sample = s.sample := rfl
@[simp] theorem setEvents_clk (es : List HostEvent) (s : State) : (setEvents es s).clk = s.clk := rfl
@[simp] theorem setEvents_pos (es : List HostEvent) (s : State) : (setEvents es s).pos = s.pos := rfl
@[simp] theorem setEvents_events (es : List HostEvent) (s : State) : (setEvents es s).events = es := rfl
@[simp] theorem setEvents_answers (es : List HostEvent) (s : State) :
    (setEvents es s).answers = s.answers := rfl

/-! Receiving an answer. -/

@[simp] theorem receive_st (a : Answer) (s : State) : (receive a s).st = s.st := rfl
@[simp] theorem receive_results (a : Answer) (s : State) : (receive a s).results = s.results := rfl
@[simp] theorem receive_pulse (a : Answer) (s : State) : (receive a s).pulse = s.pulse := rfl
@[simp] theorem receive_sample (a : Answer) (s : State) : (receive a s).sample = s.sample := rfl
@[simp] theorem receive_clk (a : Answer) (s : State) : (receive a s).clk = s.clk := rfl
@[simp] theorem receive_pos (a : Answer) (s : State) : (receive a s).pos = s.pos := rfl
@[simp] theorem receive_events (a : Answer) (s : State) : (receive a s).events = s.events := rfl
@[simp] theorem receive_answers (a : Answer) (s : State) : (receive a s).answers = s.answers ++ [a] := rfl

/-! Taking InvalidParameters. -/

@[simp] theorem raiseInvalidParameters_st (s : State) :
    (raiseInvalidParameters s).st = statusAfterRejected := rfl
@[simp] theorem raiseInvalidParameters_results (s : State) : (raiseInvalidParameters s).results = none := rfl
@[simp] theorem raiseInvalidParameters_pulse (s : State) : (raiseInvalidParameters s).pulse = s.pulse := rfl
@[simp] theorem raiseInvalidParameters_sample (s : State) :
    (raiseInvalidParameters s).sample = s.sample := rfl
@[simp] theorem raiseInvalidParameters_clk (s : State) : (raiseInvalidParameters s).clk = s.clk := rfl
@[simp] theorem raiseInvalidParameters_pos (s : State) : (raiseInvalidParameters s).pos = s.pos := rfl
@[simp] theorem raiseInvalidParameters_events (s : State) :
    (raiseInvalidParameters s).events = s.events := rfl
@[simp] theorem raiseInvalidParameters_answers (s : State) :
    (raiseInvalidParameters s).answers = s.answers := rfl

/-! RESET. -/

@[simp] theorem resetBlock_st (s : State) : (resetBlock s).st = statusAfterReset := rfl
@[simp] theorem resetBlock_results (s : State) : (resetBlock s).results = none := rfl
@[simp] theorem resetBlock_pulse (s : State) : (resetBlock s).pulse = State.reset.pulse := rfl
@[simp] theorem resetBlock_sample (s : State) : (resetBlock s).sample = State.reset.sample := rfl
@[simp] theorem resetBlock_clk (s : State) : (resetBlock s).clk = 0 := rfl
@[simp] theorem resetBlock_pos (s : State) : (resetBlock s).pos = 0 := rfl
@[simp] theorem resetBlock_events (s : State) : (resetBlock s).events = s.events := rfl
@[simp] theorem resetBlock_answers (s : State) : (resetBlock s).answers = s.answers := rfl

/-! Storing the results of the stages. -/

@[simp] theorem storeResults_st (r : Results) (T : Vector Pulse Config.nPairs) (g : Grid) (s : State) :
    (storeResults r T g s).st = statusAfterValid := rfl
@[simp] theorem storeResults_results (r : Results) (T : Vector Pulse Config.nPairs) (g : Grid) (s : State) :
    (storeResults r T g s).results = some r := rfl
@[simp] theorem storeResults_pulse (r : Results) (T : Vector Pulse Config.nPairs) (g : Grid) (s : State) :
    (storeResults r T g s).pulse = T := rfl
@[simp] theorem storeResults_sample (r : Results) (T : Vector Pulse Config.nPairs) (g : Grid) (s : State) :
    (storeResults r T g s).sample = g.sample := rfl
@[simp] theorem storeResults_clk (r : Results) (T : Vector Pulse Config.nPairs) (g : Grid) (s : State) :
    (storeResults r T g s).clk = g.clk := rfl
@[simp] theorem storeResults_pos (r : Results) (T : Vector Pulse Config.nPairs) (g : Grid) (s : State) :
    (storeResults r T g s).pos = g.pos := rfl
@[simp] theorem storeResults_events (r : Results) (T : Vector Pulse Config.nPairs) (g : Grid) (s : State) :
    (storeResults r T g s).events = s.events := rfl
@[simp] theorem storeResults_answers (r : Results) (T : Vector Pulse Config.nPairs) (g : Grid) (s : State) :
    (storeResults r T g s).answers = s.answers := rfl

/-! A completed command. -/

@[simp] theorem complete_st (L : Layout) (p : Params) (s : State) :
    (complete L p s).st = statusAfterValid :=
  storeResults_st _ _ _ _
@[simp] theorem complete_results (L : Layout) (p : Params) (s : State) :
    (complete L p s).results = some (transform L p) :=
  storeResults_results _ _ _ _
@[simp] theorem complete_pulse (L : Layout) (p : Params) (s : State) :
    (complete L p s).pulse = frame (buildPayload L p) :=
  storeResults_pulse _ _ _ _
@[simp] theorem complete_sample (L : Layout) (p : Params) (s : State) :
    (complete L p s).sample = (resample (frame (buildPayload L p))).sample :=
  storeResults_sample _ _ _ _
@[simp] theorem complete_clk (L : Layout) (p : Params) (s : State) :
    (complete L p s).clk = (resample (frame (buildPayload L p))).clk :=
  storeResults_clk _ _ _ _
@[simp] theorem complete_pos (L : Layout) (p : Params) (s : State) :
    (complete L p s).pos = (resample (frame (buildPayload L p))).pos :=
  storeResults_pos _ _ _ _
@[simp] theorem complete_events (L : Layout) (p : Params) (s : State) :
    (complete L p s).events = s.events :=
  storeResults_events _ _ _ _
@[simp] theorem complete_answers (L : Layout) (p : Params) (s : State) :
    (complete L p s).answers = s.answers :=
  storeResults_answers _ _ _ _

/-! Presenting a word. -/

@[simp] theorem presentWord_st (n w : Nat) (s : State) : (presentWord n w s).st = s.st := rfl
@[simp] theorem presentWord_results (n w : Nat) (s : State) : (presentWord n w s).results = s.results := rfl
@[simp] theorem presentWord_pulse (n w : Nat) (s : State) : (presentWord n w s).pulse = s.pulse := rfl
@[simp] theorem presentWord_sample (n w : Nat) (s : State) : (presentWord n w s).sample = s.sample := rfl
@[simp] theorem presentWord_clk (n w : Nat) (s : State) : (presentWord n w s).clk = s.clk := rfl
@[simp] theorem presentWord_pos (n w : Nat) (s : State) : (presentWord n w s).pos = s.pos := rfl
@[simp] theorem presentWord_events (n w : Nat) (s : State) :
    (presentWord n w s).events = .start (BitVec.ofNat 16 (w % 2 ^ n)) :: s.events := rfl
@[simp] theorem presentWord_answers (n w : Nat) (s : State) : (presentWord n w s).answers = s.answers := rfl

/-! The codes of ST after each event. -/

@[simp] theorem statusAfterValid_eq : statusAfterValid = .done := rfl
@[simp] theorem statusAfterRejected_eq : statusAfterRejected = .error := rfl
@[simp] theorem statusAfterReset_eq : statusAfterReset = .idle := rfl

@[simp] theorem transform_payload (L : Layout) (p : Params) :
    (transform L p).payload = buildPayload L p := rfl
@[simp] theorem transform_out (L : Layout) (p : Params) :
    (transform L p).out = encodePayload (buildPayload L p) := rfl

@[simp] theorem setEvents_presentWord (n w : Nat) (s : State) : setEvents s.events (presentWord n w s) = s := rfl
@[simp] theorem setEvents_self (s : State) : setEvents s.events s = s := rfl

end Sys2Proof.Machine
end

