-- ==== Sys2Proof/Laws/Ops.lean ====
section
/-! SUPPORT. What the shared operations can do, said once: START, the meanings, one host event, one step. -/

namespace Sys2Proof.Machine

theorem start_of_valid {L : Layout} {p : Params} (s : State) (h : valid p = true) :
    start L p s = complete L p s := by simp [start, h]

theorem start_of_invalid {L : Layout} {p : Params} (s : State) (h : valid p = false) :
    start L p s = raiseInvalidParameters s := by simp [start, h]

@[simp] theorem start_events (L : Layout) (p : Params) (s : State) : (start L p s).events = s.events := by
  unfold start; split <;> simp

@[simp] theorem start_answers (L : Layout) (p : Params) (s : State) : (start L p s).answers = s.answers := by
  unfold start; split <;> simp

/-- Every meaning is START with the command's parameters. -/
theorem exec_eq_start (i : Instr) (s : State) : exec i s = .next (start Config.layout (instrParams i) s) := by
  cases i <;> rfl

/-- The parameters of the command that valid parameters are, are those parameters. -/
theorem instrParams_commandOf {p : Params} (h : valid p = true) : instrParams (commandOf p) = p := by
  rw [valid_iff] at h
  obtain ⟨t, m, v, pw, fp, fpv⟩ := p
  obtain ⟨-, -, -, -, hp, hf⟩ := h
  rcases power_cases pw hp with rfl | rfl <;> cases fpv <;> cases fp <;> simp_all [commandOf, instrParams]

/-- START on a word is START on its fields. -/
theorem startWord_eq_start (w : Word) (s : State) :
    startWord w s = .next (start Config.layout (paramsOfWord w) s) := by
  unfold startWord
  rw [decode_spec]
  by_cases h : valid (paramsOfWord w) = true
  · simp [h, exec_eq_start, instrParams_commandOf h]
  · simp [h, start]

theorem step_nil {s : State} (h : s.events = []) : step s = .next s := by simp [step, h]

theorem step_cons {s : State} {e : HostEvent} {rest : List HostEvent} (h : s.events = e :: rest) :
    step s = hostStep e (setEvents rest s) := by simp [step, h]

/-- The next state of one event. -/
def afterEvent (e : HostEvent) (s : State) : State :=
  match e with
  | .reset => resetBlock s
  | .start w => start Config.layout (paramsOfWord w) s
  | .readST => receive (readST s) s
  | .readPayload i => receive (readPayload i s) s
  | .readOut j => receive (readOut j s) s

theorem hostStep_eq (e : HostEvent) (s : State) : hostStep e s = .next (afterEvent e s) := by
  cases e <;> simp [hostStep, afterEvent, startWord_eq_start]

/-- Everything a step can do: wait, or act on the oldest pending event. -/
theorem step_cases {s t : State} (h : step s = .next t) :
    (s.events = [] ∧ t = s) ∨ ∃ e rest, s.events = e :: rest ∧ t = afterEvent e (setEvents rest s) := by
  cases hs : s.events with
  | nil => rw [step_nil hs] at h; exact .inl ⟨rfl, by simpa using h.symm⟩
  | cons e rest =>
    rw [step_cons hs, hostStep_eq] at h
    exact .inr ⟨e, rest, rfl, by simpa using h.symm⟩

/-- A run of one step more: step, then run on. -/
theorem run_of_step {s t : State} (n : Nat) (h : step s = .next t) :
    Host.Core.run Sys2Proof.core (n + 1) s = Host.Core.run Sys2Proof.core n t := by
  have h' : Sys2Proof.core.step s = .next t := h
  simp only [Host.Core.run, h']

/-- What a read answers, by ST. -/
theorem readPayload_of_not_done {s : State} (i : Nat) (h : s.st ≠ .done) : readPayload i s = .refused := by
  unfold readPayload; split <;> simp_all

theorem readOut_of_not_done {s : State} (j : Nat) (h : s.st ≠ .done) : readOut j s = .refused := by
  unfold readOut; split <;> simp_all

theorem readPayload_of_done {s : State} {r : Results} (i : Nat) (h : s.st = .done) (hr : s.results = some r) :
    readPayload i s = if hi : i < Config.nPayload then .byte r.payload[i] else .refused := by
  unfold readPayload; split <;> simp_all

theorem readOut_of_done {s : State} {r : Results} (j : Nat) (h : s.st = .done) (hr : s.results = some r) :
    readOut j s = if hj : j < Config.nOut then .byte r.out[j] else .refused := by
  unfold readOut; split <;> simp_all

end Sys2Proof.Machine
end

