-- ==== Sys2Proof/Laws/PerInstr.lean ====
section
/-! SUPPORT. Facts about every command, one lemma per constructor: the word of a command carries the command's
parameters, whatever the operands (30_encoding.md R40, R56). -/

namespace Sys2Proof.Laws.EncodeFields

/-- The fields of the command's word are the command's parameters. -/
def Statement (i : Instr) : Prop := paramsOfWord (encode i) = instrParams i

theorem on (t : BitVec 6) (m v : BitVec 3) : Statement (.on t m v) := paramsOfWord_wordOfParams _

theorem off (t : BitVec 6) (m v : BitVec 3) : Statement (.off t m v) := paramsOfWord_wordOfParams _

theorem fpon (p : BitVec 2) (t : BitVec 6) (m v : BitVec 3) : Statement (.fpon p t m v) :=
  paramsOfWord_wordOfParams _

theorem fpoff (p : BitVec 2) (t : BitVec 6) (m v : BitVec 3) : Statement (.fpoff p t m v) :=
  paramsOfWord_wordOfParams _

end Sys2Proof.Laws.EncodeFields
end

