-- ==== Sys2Proof/Laws/Resampler.lean ====
section
/-! SUPPORT. The frame's pairs, what the fill loop does to every slot, and the packer's bits. -/

namespace Sys2Proof.Machine

theorem frame_getElem (P : Payload) (k : Nat) (h : k < 106) : (frame P)[k] = framePair P k := by
  simp [frame]

/-- The frame as a list: leader, one pair per data bit in order, trailer (42_pulse_framing.md R94). -/
theorem frame_toList (P : Payload) :
    (frame P).toList = leaderPair :: ((List.range 104).map fun d => dataPair (dataBit P d)) ++ [trailerPair] := by
  apply List.ext_getElem
  · simp
  · intro k h1 h2
    have hk : k < 106 := by
      have := h1
      rw [Vector.length_toList] at this
      exact this
    rw [Vector.getElem_toList, frame_getElem P k hk]
    unfold framePair
    rw [Config.nBits_eq]
    by_cases h0 : k = 0
    · simp [h0]
    · by_cases h4 : k ≤ 104
      · rw [if_neg h0, if_pos h4]
        obtain ⟨d, rfl⟩ : ∃ d, k = d + 1 := ⟨k - 1, by omega⟩
        simp [show d < 104 by omega]
      · have : k = 105 := by omega
        subst this
        simp

/-! ### SampleWrite and the fill loop -/

/-- The bounded store, slot by slot. -/
theorem getLsbD_sampleWrite (S : BitVec 1920) (i : Nat) (v : Bool) (k : Nat) :
    (sampleWrite S i v).getLsbD k = if k = i ∧ i < 1920 then v else S.getLsbD k := by
  change (if i < 1920 then (if v then S ||| BitVec.twoPow 1920 i else S &&& ~~~ BitVec.twoPow 1920 i)
    else S).getLsbD k = _
  by_cases hi : i < 1920
  · rw [if_pos hi]
    by_cases hk : k = i
    · subst hk
      cases v <;> simp [hi]
    · cases v
      · by_cases h : k < 1920
        · simp [hk, h, hi]
        · simp [hk, BitVec.getLsbD_of_ge S k (by omega)]
      · simp [hk, hi, BitVec.getLsbD_twoPow, Ne.symm hk]
  · simp [hi]

@[simp] theorem fillLoop_clk (v : Bool) (n : Nat) (g : Grid) : (fillLoop v n g).clk = g.clk := by
  induction n generalizing g with
  | zero => rfl
  | succ n ih => simp [fillLoop, ih]

@[simp] theorem fillLoop_pos (v : Bool) (n : Nat) (g : Grid) : (fillLoop v n g).pos = g.pos + n := by
  induction n generalizing g with
  | zero => rfl
  | succ n ih => simp [fillLoop, ih]; omega

/-- `n` turns of the loop write the slots POS to POS + n - 1 that exist, and no other. -/
theorem getLsbD_fillLoop (v : Bool) (n : Nat) (g : Grid) (k : Nat) :
    (fillLoop v n g).sample.getLsbD k =
      if g.pos ≤ k ∧ k < g.pos + n ∧ k < 1920 then v else g.sample.getLsbD k := by
  induction n generalizing g with
  | zero => simp [fillLoop]; omega
  | succ n ih =>
    rw [fillLoop, ih, getLsbD_sampleWrite]
    grind

/-! ### The packer -/

/-- Bit `c` of one sample placed at bit `b` of a byte. -/
theorem getLsbD_sampleAt (S : BitVec 1920) (i b c : Nat) (hc : c < 8) :
    (sampleAt S i b).getLsbD c = (decide (c = b) && S.getLsbD i) := by
  unfold sampleAt
  rw [BitVec.getLsbD_shiftLeft, BitVec.getLsbD_setWidth, BitVec.getLsbD_ofBool]
  grind

end Sys2Proof.Machine
end

