-- ==== Sys2Proof/Tests/Slice0.lean ====
section
/-! SUPPORT. Tests of single operations and single steps, with results taken from spec/95_test_vectors.md and
spec/30_encoding.md, and a witness for the hypotheses of each statement. -/

namespace Sys2Proof.Machine.Tests

/-! ### WellFormed refuses: one ill-formed term for each check -/

theorem test_wf_temp_low : Instr.wf (.on 17 0 0) = false := by decide
theorem test_wf_temp_high : Instr.wf (.on 33 0 0) = false := by decide
theorem test_wf_mode : Instr.wf (.off 24 4 0) = false := by decide
theorem test_wf_vol : Instr.wf (.off 24 0 4) = false := by decide
theorem test_wf_power_fpon : Instr.wf (.fpon 2 24 0 0) = false := by decide
theorem test_wf_power_fpoff : Instr.wf (.fpoff 3 24 0 0) = false := by decide
theorem test_wf_edges : Instr.wf (.on 18 0 0) = true ∧ Instr.wf (.fpoff 1 32 3 3) = true := by decide

/-- W1: a field may not cross a byte boundary. -/
theorem test_layout_w1 : ¬ Layout.WellFormed { Config.ref with temp := ⟨4, 5, 4⟩ } := by decide
/-- W2: the temperature needs 4 bits. -/
theorem test_layout_w2 : ¬ Layout.WellFormed { Config.ref with temp := ⟨4, 0, 3⟩ } := by decide
/-- W3: the mode may not share a bit with the volume-set flag. -/
theorem test_layout_w3 : ¬ Layout.WellFormed { Config.ref with mode := ⟨6, 4, 2⟩ } := by decide
/-- W4: BASE must be 0 in every field; byte 5 of REF is 0x01. -/
theorem test_layout_w4 : ¬ Layout.WellFormed { Config.ref with cmd := ⟨5, 0, 4⟩ } := by decide
theorem test_layout_ref : Config.ref.WellFormed := by decide

/-- A well-formed layout other than REF, whose checksum field lies inside the checksum range. -/
def otherLayout : Layout where
  base := #v[0, 0, 0, 0, 0, 0, 0xF0, 0xFF, 0, 0, 0, 0, 0xFF]
  temp := { byte := 0, off := 0, width := 4 }
  cmd := { byte := 0, off := 4, width := 3 }
  mode := { byte := 1, off := 0, width := 2 }
  volSet := { byte := 1, off := 2, width := 1 }
  volLevel := { byte := 3, off := 3, width := 2 }
  fullPower := { byte := 3, off := 5, width := 1 }
  checksum := { byte := 6, off := 0, width := 4 }

theorem test_layout_other : otherLayout.WellFormed := by decide

/-! ### Decoding: words written out bit by bit from 30_encoding.md R40 and R48 -/

/-- `0 0 01 000 000 011000`: FPV, FP, POWER, VOL, MODE, TEMP. -/
theorem test_decode_on : decode 0b0001000000011000 = .command (.on 24 0 0) := by decide
theorem test_decode_on_fields : decode 0b0001011010100000 = .command (.on 32 2 3) := by decide
theorem test_decode_off : decode 0b0000000000011000 = .command (.off 24 0 0) := by decide
theorem test_decode_off_fields : decode 0b0000011011100000 = .command (.off 32 3 3) := by decide
theorem test_decode_fpon : decode 0b1100010011011011 = .command (.fpon 0 27 3 2) := by decide
theorem test_decode_fpon_power : decode 0b1101010011011011 = .command (.fpon 1 27 3 2) := by decide
theorem test_decode_fpoff : decode 0b1001010011011011 = .command (.fpoff 1 27 3 2) := by decide
theorem test_decode_fpoff_least : decode 0b1000000000010010 = .command (.fpoff 0 18 0 0) := by decide

/-- 95_test_vectors.md V8. -/
theorem test_decode_rejects :
    decode 0x1011 = .invalidParameters ∧ decode 0x1021 = .invalidParameters ∧ decode 0x1118 = .invalidParameters
      ∧ decode 0x1818 = .invalidParameters ∧ decode 0x2018 = .invalidParameters ∧ decode 0xa018 = .invalidParameters
      ∧ decode 0x5018 = .invalidParameters ∧ decode 0x0000 = .invalidParameters ∧ decode 0xffff = .invalidParameters
      ∧ decode 0x103f = .invalidParameters ∧ decode 0x1000 = .invalidParameters := by
  refine ⟨?_, ?_, ?_, ?_, ?_, ?_, ?_, ?_, ?_, ?_, ?_⟩ <;> decide

theorem test_encode : encode (.on 24 0 0) = 0x1018 ∧ encode (.off 24 0 0) = 0x0018
    ∧ encode (.fpon 1 27 3 2) = 0xD4DB ∧ encode (.fpoff 0 18 0 0) = 0x8012 := by decide

theorem test_decodeTableWord : decodeTableWord 16 0x1252 = some (.on 18 1 1) ∧ decodeTableWord 16 0x1011 = none := by
  decide

/-! ### The commands: the end-to-end vectors of 95_test_vectors.md -/

/-- What the results of a next state print as, PAYLOAD and OUT (30_encoding.md R58). -/
def printed : Host.Outcome State Fault Refusal → Option (Nat × Nat)
  | .next s => s.results.map fun r => (printedValue r.payload.toList, printedValue r.out.toList)
  | .fault _ => none
  | .refused _ => none

/-- V1. -/
theorem test_on_v1 : printed (exec (.on 24 0 0) State.reset) =
    some (0xaa5acf1007110000088000e041,
      0xffffffff7f00003ef800e0830f007cf800c0070f007cf001800f1f00f800c0870f007cf001c007003e00f001800f1f7c00e003000f3e78f0c103001f7cf8e003001f007800e0830f1f7cf8e003001f3ef8f001800f3e7cf0e1830f1f7cf8e0c3071f3ef8f0c1870f3e7cf0c1830f1e00f8e0c3071f3ef8f0c1070f3e78f001800f1f7cf8e0c3071f3cf8e0c1070f3ef800e003001f00f800c0870f3e7cf0e103001f7c
        <<< 616) := by
  decide +kernel

/-- V4. -/
theorem test_on_v4 : printed (exec (.on 32 2 3) State.reset) =
    some (0xaa5acf100f117200088000e091,
      0xffffffff7f00003ef800e0830f007cf800c0070f007cf001800f1f00f800c0870f007cf001c007003e00f001800f1f7c00e003000f3e78f0c103001f7cf8e003001f007800e003001f7cf8e0c307003e78f0c103001f7cf8e0c307003ef8f001800f007c00e0c3071f3ef8f0c1870f3e7cf0e1830f007cf8e0c3071f3ef8f0c1870f3e7c00e0830f1f7cf8e0c3071f3ef8f0c1070f3e00f001800f003e00f0c1870f3e00f0e0830f003e
        <<< 560) := by
  decide +kernel

/-- V2. -/
theorem test_off_v2 : printed (exec (.off 24 0 0) State.reset) =
    some (0xaa5acf1007210000088000e071,
      0xffffffff7f00003ef800e0830f007cf800c0070f007cf001800f1f00f800c0870f007cf001c007003e00f001800f1f7c00e003000f3e78f0c103001f7cf8e003001f007800e0830f1f7cf8e003001f3ef8f0c107003e7cf0e1830f1f7cf8e0c3071f3ef8f0c1870f3e7cf0c1830f1e00f8e0c3071f3ef8f0c1070f3e78f001800f1f7cf8e0c3071f3cf8e0c1070f3ef800e003001f00f800c0870f3e7c00e003001f00f8f001
        <<< 592) := by
  decide +kernel

/-- V5. -/
theorem test_fpon_v5 : printed (exec (.fpon 1 27 3 2) State.reset) =
    some (0xaa5acf100a615300088001e091,
      0xffffffff7f00003ef800e0830f007cf800c0070f007cf001800f1f00f800c0870f007cf001c007003e00f001800f1f7c00e003000f3e78f0c103001f7cf8e0c307003ef800c0830f3e7cf001c0071f3cf8e001800f007cf001c007003ef8f001800f3e00f8e0c3071f3cf8e0c1070f3ef8f0c107001f7cf0e083071f3cf8e0c3071f3e00f001800f1f7cf8e0c3071f3ef8f0c1070f3e00f001800f003e00f0c1870f3e00f0e0830f003e
        <<< 560) := by
  decide +kernel

/-- V6. -/
theorem test_fpoff_v6 : printed (exec (.fpoff 1 27 3 2) State.reset) =
    some (0xaa5acf100a715300088001e081,
      0xffffffff7f00003ef800e0830f007cf800c0070f007cf001800f1f00f800c0870f007cf001c007003e00f001800f1f7c00e003000f3e78f0c103001f7cf8e0c307003ef800c0830f3e7cf001c0071f3cf800c007003e00f8e003001f0078f0c103001f7c00e0c3071f3ef8f0c1870f3e7cf0e1830f007cf8e0c3071f3ef8f0c1870f3e7c00e003001f3cf8e0c3071f3ef8f0c1870f3e7c00e003001f00f800c0830f1e7cf0e0830f003e
        <<< 560) := by
  decide +kernel

/-- V7b. -/
theorem test_fpoff_v7b : printed (exec (.fpoff 0 32 3 3) State.reset) =
    some (0xaa5acf100f717300088001e0f1,
      0xffffffff7f00003ef800e0830f007cf800c0070f007cf001800f1f00f800c0870f007cf001c007003e00f001800f1f7c00e003000f3e78f0c103001f7cf8e003001f007800e003001f7cf8e0c307003e78f0c103001f00f800c0070f007c00e0830f1f00f800c007001e7cf0e0830f1f7cf8e0c3071f3ef800c0830f3e7cf0e1830f1f7cf8e0c307003e00f0e1830f1f7cf0e083071f3cf8e0c307003e00f0018007003ef8f0c107003e00f000c007003e
        <<< 504) := by
  decide +kernel

/-- 95_test_vectors.md P4 step 3. -/
theorem test_off_p4 : (printed (exec (.off 32 3 3) State.reset)).map Prod.fst = some 0xaa5acf100f217300088000e0b1 := by
  decide +kernel

/-! ### Single operations -/

/-- V10: a payload of 13 bytes 0x55 has 52 one bits and lasts 161512 microseconds. -/
theorem test_frame_total :
    oneBits (Vector.replicate 13 0x55) = 52 ∧ totalDuration (frame (Vector.replicate 13 0x55)) = 161512 := by
  decide +kernel

/-- V11: the all-ones payload is truncated, and the command of it would not be a fault. -/
theorem test_truncation : (resample (frame (Vector.replicate 13 0xFF))).pos = 2097
    ∧ printedValue ((encodePayload (Vector.replicate 13 0xFF)).toList.drop 232) = 0xc007003e00f000c0 := by
  decide +kernel

/-- V11: from CLK = 100 a duration of 99 crosses no grid line and writes nothing. -/
theorem test_fill_no_line :
    advance 99 true { sample := 0, clk := 100, pos := 1 } = { sample := 0, clk := 199, pos := 1 } := by decide +kernel

/-- V11: pairs (250, 250), (250, 250) from zero. -/
theorem test_fill_two_pairs :
    pairStep (pairStep gridStart ⟨250, 250⟩) ⟨250, 250⟩ = { sample := 0b0001100011, clk := 1000, pos := 10 } := by
  decide +kernel

/-- 43_resampler_packer.md R111: samples 0,1,1,1,1,1,0,0 give 0x3e, and the earliest sample is bit 0. -/
theorem test_pack : packByte 0b00111110 0 = 0x3e ∧ packByte (BitVec.ofNat 1920 (2 ^ 8)) 1 = 0x01 := by decide +kernel

/-- V12: nibble 5 and nibble 23 are in the range, nibble 4 and nibble 24 are not. -/
theorem test_checksum_range :
    checksum #v[0xaa, 0x5a, 0xcf, 0x10, 0x07, 0x11, 0, 0, 0x08, 0x80, 0, 0xe0, 0x01] = 0x4
      ∧ checksum #v[0xaa, 0x5a, 0xc0, 0x10, 0x07, 0x11, 0, 0, 0x08, 0x80, 0, 0xe0, 0x01] = 0x4
      ∧ checksum #v[0xaa, 0x5a, 0xdf, 0x10, 0x07, 0x11, 0, 0, 0x08, 0x80, 0, 0xe0, 0x01] = 0x5
      ∧ checksum #v[0xaa, 0x5a, 0xcf, 0x10, 0x07, 0x11, 0, 0, 0x08, 0x80, 0, 0xe0, 0x00] = 0x4
      ∧ checksum #v[0xaa, 0x5a, 0xcf, 0x10, 0x07, 0x11, 0, 0, 0x08, 0x80, 0, 0xf0, 0x01] = 0x5 := by decide +kernel

/-- 30_encoding.md R58: 0x7f prints as 7f. -/
theorem test_printed_form : printedForm [0x7f, 0x0a] = ['7', 'f', '0', 'a'] := by decide

/-- 30_encoding.md R55, R59: `irgen -p 1 -t 27 -m 3 -v 2 -f 0` is the word 0x94DB. -/
theorem test_flag_line : flagWord ⟨some 1, some 27, some 3, some 2, some 0⟩ = some 0x94DB
    ∧ flagWord ⟨some 1, some 64, some 3, some 2, none⟩ = none := by decide

/-- The names of 30_encoding.md R59: `ON 18, heat, low` is 0x1252. -/
theorem test_names : encode (.on 18 (modeCode .heat) (volCode .low)) = 0x1252 := by decide

/-! ### Single steps, on a state with one pending event -/

/-- Reset, with the given events pending. -/
def pending (es : List HostEvent) : State := setEvents es State.reset

/-- A state in which a command was rejected, with the given events pending. -/
def rejected (es : List HostEvent) : State := raiseInvalidParameters (pending es)

/-- A state that holds results (zeros, with nothing else computed), with the given events pending. -/
def holding (es : List HostEvent) : State :=
  { pending es with st := .done, results := some ⟨Vector.replicate 13 0x5A, Vector.replicate 240 0xA5⟩ }

/-- The status and the answers of a next state. -/
def seen : Host.Outcome State Fault Refusal → Option (BitVec 2 × List Answer)
  | .next s => some (statusCode s.st, s.answers)
  | .fault _ => none
  | .refused _ => none

/-- 60_exceptions.md R129: START(0x1011) from reset. -/
theorem test_step_rejects : seen (step (pending [.start 0x1011])) = some (2, []) := by decide
theorem test_step_accepts : seen (step (pending [.start 0x1018])) = some (1, []) := by decide
theorem test_step_reset : seen (step (holding [.reset])) = some (0, []) := by decide
theorem test_step_readST : seen (step (rejected [.readST])) = some (2, [.status 2]) := by decide
theorem test_step_read_refused : seen (step (rejected [.readPayload 4])) = some (2, [.refused]) := by decide
theorem test_step_read_last : seen (step (holding [.readPayload 12])) = some (1, [.byte 0x5A])
    ∧ seen (step (holding [.readOut 239])) = some (1, [.byte 0xA5]) := by decide +kernel
theorem test_step_read_outside : seen (step (holding [.readPayload 13])) = some (1, [.refused])
    ∧ seen (step (holding [.readOut 240])) = some (1, [.refused]) := by decide
theorem test_fetch_runs : seen (step (State.reset.withFetchWord 16 0x1018)) = some (1, []) := by decide

/-! ### Witnesses: a state and operands that meet the hypotheses of each statement -/

theorem witness_ResetEventFromAnyState : (holding [.reset]).events = .reset :: [] := rfl
theorem witness_StepRunsDecodedCommand :
    (pending [.start 0x1018]).events = .start 0x1018 :: [] ∧ decode 0x1018 = .command (.on 24 0 0) := by
  exact ⟨rfl, by decide⟩
theorem witness_NoEventNoChange : State.reset.events = [] := rfl
theorem witness_StartCompletesOrRejects :
    ((pending [.start 0x1020]).events = .start 0x1020 :: [] ∧ valid (paramsOfWord 0x1020) = true)
      ∧ ((pending [.start 0x1021]).events = .start 0x1021 :: [] ∧ valid (paramsOfWord 0x1021) = false) :=
  ⟨⟨rfl, by decide⟩, ⟨rfl, by decide⟩⟩
theorem witness_InvalidWordsAreRejected :
    decode 0x5018 = .invalidParameters ∧ (pending [.start 0x5018]).events = .start 0x5018 :: [] :=
  ⟨by decide, rfl⟩
theorem witness_DecodeOfEncode : Instr.wf (.fpoff 1 32 3 3) = true ∧ Instr.wf (.off 18 0 0) = true := by decide
theorem witness_EncodeOfDecode : decode 0x8012 = .command (.fpoff 0 18 0 0) := by decide

/-- The operands at both ends of their ranges, and a temperature on each side of the range with its word pending. -/
theorem witness_OnStoresPlainPowerOn :
    OperandsValid 18 0 0 ∧ OperandsValid 32 3 3
      ∧ ((17 : BitVec 6).toNat < 18 ∧ (pending [.start (encode (.on 17 0 0))]).events = [.start (encode (.on 17 0 0))])
      ∧ (32 < (33 : BitVec 6).toNat
        ∧ (pending [.start (encode (.on 33 3 3))]).events = [.start (encode (.on 33 3 3))]) :=
  ⟨by decide, by decide, ⟨by decide, rfl⟩, ⟨by decide, rfl⟩⟩
theorem witness_OffStoresPlainPowerOff :
    OperandsValid 18 0 0 ∧ OperandsValid 32 3 3 ∧ decode 0x0012 = .command (.off 18 0 0)
      ∧ ((17 : BitVec 6).toNat < 18
        ∧ (pending [.start (encode (.off 17 0 0))]).events = [.start (encode (.off 17 0 0))])
      ∧ (32 < (33 : BitVec 6).toNat
        ∧ (pending [.start (encode (.off 33 3 3))]).events = [.start (encode (.off 33 3 3))]) :=
  ⟨by decide, by decide, by decide, ⟨by decide, rfl⟩, ⟨by decide, rfl⟩⟩
theorem witness_FponStoresFullPowerOn :
    ((0 : BitVec 2).toNat ≤ 1 ∧ OperandsValid 18 0 0) ∧ ((1 : BitVec 2).toNat ≤ 1 ∧ OperandsValid 32 3 3)
      ∧ (1 < (2 : BitVec 2).toNat
        ∧ (pending [.start (encode (.fpon 2 24 0 0))]).events = [.start (encode (.fpon 2 24 0 0))])
      ∧ ((17 : BitVec 6).toNat < 18
        ∧ (pending [.start (encode (.fpon 0 17 0 0))]).events = [.start (encode (.fpon 0 17 0 0))])
      ∧ (32 < (33 : BitVec 6).toNat
        ∧ (pending [.start (encode (.fpon 1 33 3 3))]).events = [.start (encode (.fpon 1 33 3 3))]) :=
  ⟨⟨by decide, by decide⟩, ⟨by decide, by decide⟩, ⟨by decide, rfl⟩, ⟨by decide, rfl⟩, ⟨by decide, rfl⟩⟩
theorem witness_FpoffStoresFullPowerOff :
    ((0 : BitVec 2).toNat ≤ 1 ∧ OperandsValid 18 0 0) ∧ ((1 : BitVec 2).toNat ≤ 1 ∧ OperandsValid 32 3 3)
      ∧ (1 < (3 : BitVec 2).toNat
        ∧ (pending [.start (encode (.fpoff 3 24 0 0))]).events = [.start (encode (.fpoff 3 24 0 0))])
      ∧ ((17 : BitVec 6).toNat < 18
        ∧ (pending [.start (encode (.fpoff 0 17 0 0))]).events = [.start (encode (.fpoff 0 17 0 0))])
      ∧ (32 < (33 : BitVec 6).toNat
        ∧ (pending [.start (encode (.fpoff 1 33 3 3))]).events = [.start (encode (.fpoff 1 33 3 3))]) :=
  ⟨⟨by decide, by decide⟩, ⟨by decide, by decide⟩, ⟨by decide, rfl⟩, ⟨by decide, rfl⟩, ⟨by decide, rfl⟩⟩
theorem witness_IllFormedCommandRejected :
    Instr.wf (.on 17 0 0) = false ∧ Instr.wf (.off 33 0 0) = false ∧ Instr.wf (.fpon 2 24 0 0) = false
      ∧ Instr.wf (.fpoff 1 24 4 0) = false := by decide
theorem witness_InvalidParametersEntry :
    (holding [.start 0x2018]).events = .start 0x2018 :: [] ∧ valid (paramsOfWord 0x2018) = false :=
  ⟨rfl, by decide⟩
theorem witness_ErrorLeftByStartOrReset :
    (rejected [.start 0x1018]).st = .error ∧ valid (paramsOfWord 0x1018) = true
      ∧ (rejected [.start 0x1021]).events = .start 0x1021 :: [] ∧ valid (paramsOfWord 0x1021) = false
      ∧ (rejected [.reset]).events = .reset :: []
      ∧ ∃ t, step (rejected [.reset]) = .next t ∧ t.st ≠ .error :=
  ⟨rfl, by decide, rfl, by decide, rfl, _, rfl, by decide⟩
theorem witness_HostReads :
    (rejected [.readST]).events = .readST :: []
      ∧ ((holding [.readPayload 12]).events = .readPayload 12 :: [] ∧ (holding [.readPayload 12]).st = .done
        ∧ (holding [.readPayload 12]).results.isSome = true)
      ∧ ((holding [.readOut 239]).events = .readOut 239 :: [] ∧ (holding [.readOut 239]).st = .done
        ∧ (holding [.readOut 239]).results.isSome = true)
      ∧ ((rejected [.readPayload 0]).events = .readPayload 0 :: [] ∧ (rejected [.readPayload 0]).st ≠ .done)
      ∧ ((holding [.readOut 240]).events = .readOut 240 :: [] ∧ 240 ≤ 240) :=
  ⟨rfl, ⟨rfl, rfl, rfl⟩, ⟨rfl, rfl, rfl⟩, ⟨rfl, by decide⟩, ⟨rfl, by decide⟩⟩
theorem witness_OnlyStartAndResetWriteTheBlock :
    ∃ t, step (holding [.readST]) = .next t ∧ t.answers = [.status 1] := ⟨_, rfl, rfl⟩
theorem witness_ResultsIndependentOfHistory :
    (rejected [.start 0x1018]).events = .start 0x1018 :: [] ∧ (holding [.start 0x1018]).events = .start 0x1018 :: []
      ∧ (rejected [.start 0x1018]).st ≠ (holding [.start 0x1018]).st ∧ valid (paramsOfWord 0x1018) = true :=
  ⟨rfl, rfl, by decide, by decide⟩
theorem witness_HostCannotSeeIntermediates :
    SameToHost (pending [.readST]) { pending [.readST] with clk := 7, pos := 3, sample := 1 }
      ∧ pending [.readST] ≠ { pending [.readST] with clk := 7, pos := 3, sample := 1 } :=
  ⟨⟨rfl, rfl, rfl, rfl⟩, fun h => absurd (congrArg State.clk h) (by decide)⟩
/-- A state after a completed command meets the invariant, and steps. -/
theorem witness_StepKeepsBlockInvariant :
    Inv (complete Config.layout (paramsOfWord 0x1018) (pending [.readOut 0]))
      ∧ ∃ t, step (complete Config.layout (paramsOfWord 0x1018) (pending [.readOut 0])) = .next t :=
  ⟨⟨by simp [ResultsWhenDone], fun r hr => ⟨paramsOfWord 0x1018, by decide, by
      simp only [complete_results, Option.some.injEq] at hr
      subst hr
      simp⟩⟩, _, (step_cons rfl).trans (hostStep_eq _ _)⟩
theorem witness_StepKeepsWidths : WidthsSuffice (pending [.start 0x1018]) ∧ ∃ t, step (pending [.start 0x1018]) = .next t :=
  ⟨⟨by simp [pending, State.reset], by decide, by decide⟩, _, (step_cons rfl).trans (hostStep_eq _ _)⟩
theorem witness_FieldsReadBack :
    Config.ref.WellFormed ∧ otherLayout.WellFormed ∧ valid (paramsOfWord 0x1012) = true
      ∧ valid (paramsOfWord 0x96e0) = true := by decide
theorem witness_ConstantBitsNeverVary :
    otherLayout.WellFormed ∧ valid (paramsOfWord 0x1018) = true ∧ (∀ f ∈ otherLayout.fields, f.hasBit 6 7 = false) := by
  decide
/-- The checksum's nibble lies outside the range in REF and inside it in the other layout. -/
theorem witness_ChecksumSelfCheck :
    Config.ref.WellFormed ∧ valid (paramsOfWord 0x1018) = true
      ∧ 2 * Config.ref.checksum.byte.val + Config.ref.checksum.off / 4 ∉ checksumRange
      ∧ 2 * otherLayout.checksum.byte.val + otherLayout.checksum.off / 4 ∈ checksumRange := by decide
theorem witness_PayloadClosedForm : otherLayout.WellFormed ∧ valid (paramsOfWord 0xd4db) = true := by decide
/-- FPON with either POWER: two different parameters, one payload. -/
theorem witness_PayloadDeterminesCommand :
    Config.ref.WellFormed ∧ valid (paramsOfWord 0xc4db) = true ∧ valid (paramsOfWord 0xd4db) = true
      ∧ paramsOfWord 0xc4db ≠ paramsOfWord 0xd4db
      ∧ buildPayload Config.ref (paramsOfWord 0xc4db) = buildPayload Config.ref (paramsOfWord 0xd4db) := by
  refine ⟨by decide, by decide, by decide, by decide, by decide +kernel⟩
theorem witness_ChecksumFollowsEachBit : (0 : Nat) < 8 ∧ (7 : Nat) < 8 := by decide
theorem witness_FrameOfAnyPayload : (0 : Nat) < 104 ∧ (103 : Nat) < 104 := by decide
theorem witness_BoundedSampleStore : (1920 : Nat) ≤ 1920 ∧ (1919 : Nat) < 1920 := by decide
/-- A slot the closed form gives 1, the last of the leader mark. -/
theorem witness_ResampleClosedForm : (38 : Nat) < 1920
    ∧ startTime (frame (Vector.replicate 13 0)) 0 / 100 ≤ 38
    ∧ 38 < (startTime (frame (Vector.replicate 13 0)) 0 + (frame (Vector.replicate 13 0))[0].mark) / 100 := by
  decide +kernel
theorem witness_ResamplerOnlyExtendsForward : (0 : Nat) < (advance 488 true gridStart).pos := by decide +kernel
theorem witness_NoTruncationUnderReference : valid (paramsOfWord 0x96e0) = true ∧ valid (paramsOfWord 0x1014) = true := by
  decide
theorem witness_PackKeepsEverySample : (239 : Nat) < 240 ∧ (7 : Nat) < 8 := by decide
/-- The all-zero payload ends at POS = 1132, and byte 142 begins past it. -/
theorem witness_BytesPastTheFrameAreZero :
    (142 : Nat) < 240 ∧ (resample (frame (Vector.replicate 13 0))).pos ≤ 8 * 142 := by decide +kernel
theorem witness_FlagLineWord :
    ((3 : Nat) < 4 ∧ (63 : Nat) < 64 ∧ (7 : Nat) < 8 ∧ (1 : Nat) < 2)
      ∧ (FlagLine.mk none (some 24) (some 0) (some 0) none).power = none
      ∧ ((FlagLine.mk (some 1) (some 24) (some 0) (some 0) (some 2)).fullPower = some 2 ∧ 2 ≤ 2) := by decide

end Sys2Proof.Machine.Tests
end

/-! The statements about the state (10_state.md): what a step writes, what a host can see, the invariant of the block,
the widths of the buffers (with the length of a frame and the final CLK and POS of the resampler), and the constant
bits of the payload. -/

namespace Sys2Proof.Machine

/-! ### What a step writes -/

/-- `t` holds the block's fields of `s`: ST, PAYLOAD and OUT, PULSE, SAMPLE, CLK and POS. -/
structure SameBlock (s t : State) : Prop where
  st : t.st = s.st
  results : t.results = s.results
  pulse : t.pulse = s.pulse
  sample : t.sample = s.sample
  clk : t.clk = s.clk
  pos : t.pos = s.pos

theorem sameBlock_refl (s : State) : SameBlock s s := ⟨rfl, rfl, rfl, rfl, rfl, rfl⟩

theorem sameBlock_receive_setEvents (a : Answer) (es : List HostEvent) (s : State) :
    SameBlock s (receive a (setEvents es s)) := ⟨rfl, rfl, rfl, rfl, rfl, rfl⟩

/-- What a step does to the block: RESET, START, or nothing (10_state.md R22). -/
theorem step_block_cases {s t : State} (h : step s = .next t) :
    (∃ rest, s.events = .reset :: rest ∧ t = resetBlock (setEvents rest s)) ∨
    (∃ w rest, s.events = .start w :: rest ∧ t = start Config.layout (paramsOfWord w) (setEvents rest s)) ∨
    SameBlock s t := by
  obtain ⟨-, rfl⟩ | ⟨e, rest, hs, rfl⟩ := step_cases h
  · exact .inr (.inr (sameBlock_refl _))
  · cases e with
    | reset => exact .inl ⟨rest, hs, rfl⟩
    | start w => exact .inr (.inl ⟨w, rest, hs, rfl⟩)
    | readST => exact .inr (.inr (sameBlock_receive_setEvents _ _ _))
    | readPayload i => exact .inr (.inr (sameBlock_receive_setEvents _ _ _))
    | readOut j => exact .inr (.inr (sameBlock_receive_setEvents _ _ _))

/-- A property of the block that RESET, a completed and a rejected command establish or keep, and that rests on the
block's fields alone, is kept by every step. -/
theorem step_keeps_of_block {Q : State → Prop} (hblock : ∀ {s t}, SameBlock s t → Q s → Q t)
    (hreset : ∀ s, Q (resetBlock s)) (hcomplete : ∀ p s, valid p = true → Q (complete Config.layout p s))
    (hreject : ∀ s, Q s → Q (raiseInvalidParameters s)) {s t : State} (hs : Q s) (h : step s = .next t) : Q t := by
  obtain ⟨rest, -, rfl⟩ | ⟨w, rest, -, rfl⟩ | hst := step_block_cases h
  · exact hreset _
  · cases hp : valid (paramsOfWord w) with
    | true => rw [start_of_valid _ hp]; exact hcomplete _ _ hp
    | false =>
      rw [start_of_invalid _ hp]
      exact hreject _ (hblock (s := s) ⟨rfl, rfl, rfl, rfl, rfl, rfl⟩ hs)
  · exact hblock hst hs

/-- Settles O23: the cases of a step on the block. -/
theorem onlyStartAndResetWriteTheBlock : Obligations.OnlyStartAndResetWriteTheBlock := by
  intro s t h
  obtain ⟨rest, hs, -⟩ | ⟨w, rest, hs, -⟩ | hst := step_block_cases h
  · exact .inl ⟨rest, hs⟩
  · exact .inr (.inl ⟨w, rest, hs⟩)
  · exact .inr (.inr ⟨hst.st, hst.results, hst.pulse, hst.sample, hst.clk, hst.pos⟩)

/-! ### What a host can see -/

theorem sameToHost_setEvents {s t : State} (es : List HostEvent) (h : SameToHost s t) :
    SameToHost (setEvents es s) (setEvents es t) := by
  obtain ⟨hst, hres, -, hans⟩ := h
  exact ⟨hst, hres, rfl, hans⟩

/-- The same answer to both keeps two states alike to the host. -/
theorem sameToHost_receive {s t : State} {a b : Answer} (h : SameToHost s t) (hab : a = b) :
    SameToHost (receive a s) (receive b t) := by
  obtain ⟨hst, hres, hev, hans⟩ := h
  exact ⟨hst, hres, hev, by simp [hans, hab]⟩

theorem sameToHost_resetBlock {s t : State} (h : SameToHost s t) :
    SameToHost (resetBlock s) (resetBlock t) := by
  obtain ⟨-, -, hev, hans⟩ := h
  exact ⟨rfl, rfl, hev, hans⟩

/-- START writes ST, PAYLOAD and OUT from its parameters alone (40_commands.md R67). -/
theorem sameToHost_start {s t : State} (L : Layout) (p : Params) (h : SameToHost s t) :
    SameToHost (start L p s) (start L p t) := by
  obtain ⟨-, -, hev, hans⟩ := h
  cases hp : valid p with
  | true =>
    rw [start_of_valid s hp, start_of_valid t hp]
    exact ⟨by simp, by simp, by simpa using hev, by simpa using hans⟩
  | false =>
    rw [start_of_invalid s hp, start_of_invalid t hp]
    exact ⟨rfl, rfl, hev, hans⟩

/-- No read sees more than ST, PAYLOAD and OUT (10_state.md R22). -/
theorem reads_congr {s t : State} (h : SameToHost s t) :
    readST s = readST t ∧ (∀ i, readPayload i s = readPayload i t) ∧ ∀ j, readOut j s = readOut j t := by
  obtain ⟨hst, hres, -, -⟩ := h
  simp only [readST, readPayload, readOut, hst, hres, implies_true, and_self]

theorem sameToHost_afterEvent {s t : State} (e : HostEvent) (h : SameToHost s t) :
    SameToHost (afterEvent e s) (afterEvent e t) := by
  obtain ⟨hst, hpayload, hout⟩ := reads_congr h
  cases e with
  | reset => exact sameToHost_resetBlock h
  | start w => exact sameToHost_start _ _ h
  | readST => exact sameToHost_receive h hst
  | readPayload i => exact sameToHost_receive h (hpayload i)
  | readOut j => exact sameToHost_receive h (hout j)

/-- From two states alike to the host, one step of each leaves two such states. -/
theorem step_sameToHost {s t : State} (h : SameToHost s t) :
    ∃ s' t', step s = .next s' ∧ step t = .next t' ∧ SameToHost s' t' := by
  have hev : s.events = t.events := h.2.2.1
  cases hs : s.events with
  | nil => exact ⟨s, t, step_nil hs, step_nil (hev ▸ hs), h⟩
  | cons e rest =>
    exact ⟨_, _, (step_cons hs).trans (hostStep_eq _ _), (step_cons (hev ▸ hs)).trans (hostStep_eq _ _),
      sameToHost_afterEvent e (sameToHost_setEvents rest h)⟩

/-- Settles O25, by induction on the number of steps. -/
theorem hostCannotSeeIntermediates : Obligations.HostCannotSeeIntermediates := by
  intro n
  induction n with
  | zero => exact fun s t h => h
  | succ n ih =>
    intro s t h
    obtain ⟨s', t', hs, ht, h'⟩ := step_sameToHost h
    rw [run_of_step n hs, run_of_step n ht]
    exact ih s' t' h'

/-! ### Results exactly when DONE -/

/-- Without results and outside DONE the invariant holds, whatever the buffers are. -/
theorem inv_of_no_results {s : State} (hst : s.st ≠ .done) (hres : s.results = none) : Inv s :=
  ⟨by simp [ResultsWhenDone, hst, hres], fun r hr => by simp [hres] at hr⟩

theorem inv_complete {p : Params} (s : State) (hp : valid p = true) : Inv (complete Config.layout p s) := by
  refine ⟨by simp [ResultsWhenDone], fun r hr => ⟨p, hp, ?_⟩⟩
  obtain rfl : transform Config.layout p = r := by simpa using hr
  simp

/-- The invariant rests on the block's fields alone. -/
theorem inv_of_sameBlock {s t : State} (h : SameBlock s t) (hs : Inv s) : Inv t := by
  obtain ⟨hst, hres, hpulse, hsample, hclk, hpos⟩ := h
  simpa only [Inv, ResultsWhenDone, ResultsOfValidCommand, hst, hres, hpulse, hsample, hclk, hpos] using hs

/-- Settles O26: at reset there are no results. -/
theorem blockInvariantAtReset : Obligations.BlockInvariantAtReset :=
  inv_of_no_results (by decide) rfl

/-- Settles O27: RESET and a rejected START leave no results, a valid START those of its command, and no other event
changes the block. -/
theorem stepKeepsBlockInvariant : Obligations.StepKeepsBlockInvariant := fun _ _ =>
  step_keeps_of_block inv_of_sameBlock
    (fun _ => inv_of_no_results (by simp) rfl)
    (fun _ s hp => inv_complete s hp)
    (fun _ _ => inv_of_no_results (by simp) rfl)

/-! ### How long a frame lasts -/

/-- A data bit lasts 952 microseconds, and a 1 bit 928 more (42_pulse_framing.md R92). -/
theorem dataPair_duration (b : Bool) : (dataPair b).mark + (dataPair b).space = 952 + 928 * b.toNat := by
  cases b <;> rfl

theorem sum_dataPair_durations (f : Nat → Bool) (l : List Nat) :
    (l.map fun d => (dataPair (f d)).mark + (dataPair (f d)).space).sum = 952 * l.length + 928 * l.countP f := by
  induction l with
  | nil => rfl
  | cons d l ih =>
    rw [List.map_cons, List.sum_cons, ih, dataPair_duration, List.length_cons, List.countP_cons]
    cases f d <;> simp <;> omega

theorem oneBits_eq (P : Payload) : oneBits P = (List.range 104).countP (dataBit P) := rfl

/-- A train of a first pair, a middle and a last pair lasts as long as they do together. -/
theorem sum_durations_enclosed (first last : Pulse) (l : List Pulse) :
    ((first :: l ++ [last]).map fun q => q.mark + q.space).sum =
      (first.mark + first.space) + (l.map fun q => q.mark + q.space).sum + (last.mark + last.space) := by
  simp [Nat.add_assoc]

/-- The length of a frame (42_pulse_framing.md R96). -/
theorem totalDuration_frame (P : Payload) : totalDuration (frame P) = 113256 + 928 * oneBits P := by
  have hleader : leaderPair.mark + leaderPair.space = 5760 := rfl
  have htrailer : trailerPair.mark + trailerPair.space = 8488 := rfl
  rw [totalDuration, frame_toList, sum_durations_enclosed, hleader, htrailer, List.map_map, Function.comp_def,
    sum_dataPair_durations, ← oneBits_eq, List.length_range]
  omega

theorem oneBits_le (P : Payload) : oneBits P ≤ 104 :=
  List.countP_le_length.trans_eq List.length_range

/-- A pair of a frame is the leader, a data pair or the trailer. -/
theorem mem_frame {P : Payload} {q : Pulse} (h : q ∈ (frame P).toList) :
    q = leaderPair ∨ (∃ b, q = dataPair b) ∨ q = trailerPair := by
  simp only [frame_toList, List.cons_append, List.mem_cons, List.mem_append, List.mem_map, List.not_mem_nil,
    or_false] at h
  obtain rfl | ⟨d, -, rfl⟩ | rfl := h
  · exact .inl rfl
  · exact .inr (.inl ⟨_, rfl⟩)
  · exact .inr (.inr rfl)

/-- 13 bits suffice for every duration of a frame (10_state.md R14). -/
theorem frame_durations_lt {P : Payload} {q : Pulse} (h : q ∈ (frame P).toList) :
    q.mark < 2 ^ 13 ∧ q.space < 2 ^ 13 := by
  obtain rfl | ⟨b, rfl⟩ | rfl := mem_frame h
  · decide
  · cases b <;> decide
  · decide

/-! ### CLK and POS of the resampler -/

@[simp] theorem fill_clk (e : Nat) (v : Bool) (g : Grid) : (fill e v g).clk = g.clk := fillLoop_clk _ _ _

@[simp] theorem fill_pos (e : Nat) (v : Bool) (g : Grid) : (fill e v g).pos = max g.pos e := by
  simp [fill]; omega

@[simp] theorem advance_clk (d : Nat) (v : Bool) (g : Grid) : (advance d v g).clk = g.clk + d := by
  simp [advance]

@[simp] theorem advance_pos (d : Nat) (v : Bool) (g : Grid) :
    (advance d v g).pos = max g.pos ((g.clk + d) / 100) := by
  simp [advance]

@[simp] theorem pairStep_clk (g : Grid) (q : Pulse) : (pairStep g q).clk = g.clk + (q.mark + q.space) := by
  simp [pairStep, Nat.add_assoc]

/-- Between pairs POS is the floor of CLK over the period: the remainders carry (43_resampler_packer.md R106). -/
theorem pairStep_pos {g : Grid} (q : Pulse) (hg : g.pos = g.clk / 100) :
    (pairStep g q).pos = (pairStep g q).clk / 100 := by
  simp [pairStep, hg]; omega

theorem foldl_pairStep_clk (l : List Pulse) (g : Grid) :
    (l.foldl pairStep g).clk = g.clk + (l.map fun q => q.mark + q.space).sum := by
  induction l generalizing g with
  | nil => rfl
  | cons q l ih => simp [ih, Nat.add_assoc]

theorem foldl_pairStep_pos (l : List Pulse) {g : Grid} (hg : g.pos = g.clk / 100) :
    (l.foldl pairStep g).pos = (l.foldl pairStep g).clk / 100 := by
  induction l generalizing g with
  | nil => exact hg
  | cons q l ih => exact ih (pairStep_pos q hg)

/-- CLK ends at the sum of all durations, for every pulse train (43_resampler_packer.md R106). -/
theorem resample_clk (T : Vector Pulse Config.nPairs) : (resample T).clk = totalDuration T :=
  (foldl_pairStep_clk T.toList gridStart).trans (Nat.zero_add _)

/-- POS ends at the floor of that sum over the period (43_resampler_packer.md R106). -/
theorem resample_pos (T : Vector Pulse Config.nPairs) : (resample T).pos = totalDuration T / 100 := by
  rw [← resample_clk]
  exact foldl_pairStep_pos T.toList rfl

/-! ### The widths suffice -/

/-- The widths rest on PULSE, CLK and POS alone. -/
theorem widthsSuffice_congr {s t : State} (hpulse : t.pulse = s.pulse) (hclk : t.clk = s.clk) (hpos : t.pos = s.pos)
    (hs : WidthsSuffice s) : WidthsSuffice t := by
  simpa only [WidthsSuffice, hpulse, hclk, hpos] using hs

/-- The stages' values fit for any payload, valid or not (43_resampler_packer.md R108). -/
theorem widthsSuffice_complete (L : Layout) (p : Params) (s : State) : WidthsSuffice (complete L p s) := by
  have htotal := totalDuration_frame (buildPayload L p)
  have hones := oneBits_le (buildPayload L p)
  refine ⟨fun q hq => frame_durations_lt (P := buildPayload L p) ?_, ?_, ?_⟩
  · simpa only [complete_pulse] using hq
  · rw [complete_clk, resample_clk]; omega
  · rw [complete_pos, resample_pos]; omega

/-- Settles O28: the buffers are zero at reset. -/
theorem widthsSufficeAtReset : Obligations.WidthsSufficeAtReset :=
  ⟨by simp [State.reset], by decide, by decide⟩

/-- Settles O29: RESET leaves the buffers zero, a valid START leaves a frame's values, and nothing else writes them. -/
theorem stepKeepsWidths : Obligations.StepKeepsWidths := fun _ _ =>
  step_keeps_of_block (fun h => widthsSuffice_congr h.pulse h.clk h.pos)
    (fun _ => widthsSuffice_congr (s := State.reset) rfl rfl rfl widthsSufficeAtReset)
    (fun p s _ => widthsSuffice_complete Config.layout p s)
    (fun s => widthsSuffice_congr (s := s) rfl rfl rfl)

/-! ### The constant bits of the payload -/

theorem constantBitsHold_base (L : Layout) : ConstantBitsHold L L.base := fun _ _ _ _ _ => rfl

/-- A Put of a value that fits one of the fields keeps the constant bits. -/
theorem constantBitsHold_put {L : Layout} {P : Payload} (hP : ConstantBitsHold L P) {f : FieldPos}
    (hf : f ∈ L.fields) {v : Nat} (hv : v < 2 ^ f.width) : ConstantBitsHold L (put P f v) := by
  intro i hi b hb hout
  rw [getLsbD_byteAt_put_outside P f v i b hv (hout f hf) hb]
  exact hP i hi b hb hout

/-- Settles O31: the builder starts from BASE and makes seven Puts, each of a value that fits its field. -/
theorem constantBitsNeverVary : Obligations.ConstantBitsNeverVary := by
  intro L p hL hp
  obtain ⟨htemp, hcmd, hmode, hvolSet, hvolLevel, hfull⟩ := values_fit hL hp
  have hbefore : ConstantBitsHold L (payloadBeforeChecksum L p) := by
    have h := constantBitsHold_put (constantBitsHold_base L) (f := L.temp) (by simp [Layout.fields]) htemp
    have h := constantBitsHold_put h (f := L.cmd) (by simp [Layout.fields]) hcmd
    have h := constantBitsHold_put h (f := L.mode) (by simp [Layout.fields]) hmode
    have h := constantBitsHold_put h (f := L.volSet) (by simp [Layout.fields]) hvolSet
    have h := constantBitsHold_put h (f := L.volLevel) (by simp [Layout.fields]) hvolLevel
    exact constantBitsHold_put h (f := L.fullPower) (by simp [Layout.fields]) hfull
  exact constantBitsHold_put hbefore (by simp [Layout.fields]) (checksum_fits hL _)

end Sys2Proof.Machine

/-! The statements about memory (20_memory.md): the START of a presented word, and the bit order of the packer. -/

namespace Sys2Proof.Machine

/-! ### The step of a START -/

theorem startWord_of_decode {w : Word} {i : Instr} (h : decode w = .command i) (s : State) :
    startWord w s = exec i s := by
  simp only [startWord, h]

/-- A START whose word decodes to a command runs that command with the event taken (40_commands.md R60). -/
theorem step_start_of_decode {s : State} {w : Word} {i : Instr} {rest : List HostEvent}
    (hs : s.events = .start w :: rest) (h : decode w = .command i) : step s = exec i (setEvents rest s) :=
  (step_cons hs).trans (startWord_of_decode h _)

/-- A 16-bit word is presented whole, before every pending event. -/
theorem withFetchWord_events (s : State) (w : Word) :
    (s.withFetchWord 16 w.toNat).events = .start w :: s.events := by
  rw [State.withFetchWord, presentWord_events, Nat.mod_eq_of_lt w.isLt, BitVec.ofNat_toNat, BitVec.setWidth_eq]

/-- Settles O3: the step of a START is the case of the decoded command, and taking the presented START gives back the
state it was presented in. -/
theorem stepRunsDecodedCommand : Obligations.StepRunsDecodedCommand := by
  refine ⟨fun s w i rest hs h => step_start_of_decode hs h, fun s w i h => ?_⟩
  have hstep := step_start_of_decode (withFetchWord_events s w) h
  rwa [State.withFetchWord, setEvents_presentWord] at hstep

/-! ### The bit order of the packer -/

/-- Bit `b` of a packed byte comes from the one sample shifted to `b`: the other seven leave it 0
(43_resampler_packer.md R111). -/
theorem getLsbD_packByte (S : BitVec 1920) (j : Nat) {b : Nat} (hb : b < 8) :
    (packByte S j).getLsbD b = S.getLsbD (8 * j + b) := by
  simp only [packByte, BitVec.getLsbD_or, getLsbD_sampleAt _ _ _ _ hb]
  interval_cases b <;> simp

theorem getElem_pack (S : BitVec 1920) {j : Nat} (h : j < 240) : (pack S)[j] = packByte S j :=
  Vector.getElem_ofFn h

/-- Settles O47: byte `j` of the packer is the packed byte `j`, whose bits are the samples in order. -/
theorem packKeepsEverySample : Obligations.PackKeepsEverySample := by
  intro S j h b hb
  rw [getElem_pack S h, getLsbD_packByte S j hb]

end Sys2Proof.Machine

/-! The statements about the encoding (30_encoding.md): the round trip of the decoder and the encoder, the rows of the
command map, the invalid words, the word of a flag line, the fields of the payload, and the pairs of a frame. -/

namespace Sys2Proof.Machine

/-! ### The round trip -/

/-- A word is the word of given parameters exactly when its fields are those parameters (30_encoding.md R40). -/
theorem wordOfParams_eq_iff (p : Params) (w : Word) : wordOfParams p = w ↔ p = paramsOfWord w := by
  constructor
  · rintro rfl
    exact (paramsOfWord_wordOfParams p).symm
  · rintro rfl
    exact wordOfParams_paramsOfWord w

/-- The parameters of a command determine it. -/
theorem commandOf_instrParams (i : Instr) : commandOf (instrParams i) = i := by
  cases i <;> rfl

theorem decode_eq_invalid_iff (w : Word) : decode w = .invalidParameters ↔ valid (paramsOfWord w) = false := by
  rw [decode_spec]
  cases valid (paramsOfWord w) <;> simp

/-- A word decodes to a command exactly when the operands are in range and the fields are the command's parameters. -/
theorem decode_eq_command_iff (w : Word) (i : Instr) :
    decode w = .command i ↔ i.wf = true ∧ instrParams i = paramsOfWord w := by
  rw [decode_spec, ← valid_instrParams]
  constructor
  · intro h
    split at h
    · next hv =>
      obtain rfl : commandOf (paramsOfWord w) = i := by simpa using h
      rw [instrParams_commandOf hv]
      exact ⟨hv, rfl⟩
    · cases h
  · rintro ⟨hv, hw⟩
    rw [← hw, if_pos hv, commandOf_instrParams]

/-- Settles O12: the fields of a command's word are its parameters. -/
theorem decodeOfEncode : Obligations.DecodeOfEncode := fun i hi =>
  (decode_eq_command_iff _ i).2 ⟨hi, (paramsOfWord_wordOfParams _).symm⟩

/-- Settles O13: a word is made of its fields, which are the command's parameters. -/
theorem encodeOfDecode : Obligations.EncodeOfDecode := by
  intro w i h
  obtain ⟨hwf, hw⟩ := (decode_eq_command_iff w i).1 h
  exact ⟨hwf, (wordOfParams_eq_iff _ w).2 hw⟩

/-! ### The bits of a word are its fields -/

theorem toNat_extractLsb'_eq_bits (w : Word) (lo len : Nat) (h : 0 < len) :
    (w.extractLsb' lo len).toNat = bits w.toNat (lo + len - 1) lo := by
  rw [BitVec.extractLsb'_toNat, Nat.shiftRight_eq_div_pow, bits, show lo + len - 1 - lo + 1 = len by omega]

theorem toNat_getLsbD_eq_bits (w : Word) (i : Nat) : (w.getLsbD i).toNat = bits w.toNat i i := by
  rw [BitVec.getLsbD, Nat.toNat_testBit, bits, Nat.sub_self, Nat.zero_add, Nat.pow_one]

theorem temp_toNat (w : Word) : (paramsOfWord w).temp.toNat = bits w.toNat 5 0 :=
  toNat_extractLsb'_eq_bits w 0 6 (by decide)

theorem mode_toNat (w : Word) : (paramsOfWord w).mode.toNat = bits w.toNat 8 6 :=
  toNat_extractLsb'_eq_bits w 6 3 (by decide)

theorem vol_toNat (w : Word) : (paramsOfWord w).vol.toNat = bits w.toNat 11 9 :=
  toNat_extractLsb'_eq_bits w 9 3 (by decide)

theorem power_toNat (w : Word) : (paramsOfWord w).power.toNat = bits w.toNat 13 12 :=
  toNat_extractLsb'_eq_bits w 12 2 (by decide)

theorem fp_toNat (w : Word) : (paramsOfWord w).fp.toNat = bits w.toNat 14 14 := toNat_getLsbD_eq_bits w 14

theorem fpv_toNat (w : Word) : (paramsOfWord w).fpv.toNat = bits w.toNat 15 15 := toNat_getLsbD_eq_bits w 15

/-! ### The rows of the command map -/

theorem power_eq_zero_iff (p : BitVec 2) : p = 0 ↔ p.toNat = 0 := by
  revert p; decide

theorem exists_decode_on_iff (w : Word) :
    (∃ t m v, decode w = .command (.on t m v)) ↔ rowMatches rowOn w = true := by
  simp only [rowMatches_iff, rowOn_masked_iff, decode_eq_command_iff, instrParams, ← valid_instrParams, valid_iff]
  obtain ⟨t, m, v, p, fp, fpv⟩ := paramsOfWord w
  constructor
  · rintro ⟨_, _, _, ⟨hlow, hhigh, hm, hv, -, -⟩, ⟨⟩⟩
    exact ⟨⟨hm, hv, rfl, rfl, rfl⟩, hlow, hhigh⟩
  · rintro ⟨⟨hm, hv, hp, rfl, rfl⟩, hlow, hhigh⟩
    obtain rfl := (power_eq_one_iff p).2 hp
    exact ⟨t, m, v, ⟨hlow, hhigh, hm, hv, by decide, by simp⟩, rfl⟩

theorem exists_decode_off_iff (w : Word) :
    (∃ t m v, decode w = .command (.off t m v)) ↔ rowMatches rowOff w = true := by
  simp only [rowMatches_iff, rowOff_masked_iff, decode_eq_command_iff, instrParams, ← valid_instrParams, valid_iff]
  obtain ⟨t, m, v, p, fp, fpv⟩ := paramsOfWord w
  constructor
  · rintro ⟨_, _, _, ⟨hlow, hhigh, hm, hv, -, -⟩, ⟨⟩⟩
    exact ⟨⟨hm, hv, rfl, rfl, rfl⟩, hlow, hhigh⟩
  · rintro ⟨⟨hm, hv, hp, rfl, rfl⟩, hlow, hhigh⟩
    obtain rfl := (power_eq_zero_iff p).2 hp
    exact ⟨t, m, v, ⟨hlow, hhigh, hm, hv, by decide, by simp⟩, rfl⟩

theorem exists_decode_fpon_iff (w : Word) :
    (∃ p t m v, decode w = .command (.fpon p t m v)) ↔ rowMatches rowFpon w = true := by
  simp only [rowMatches_iff, rowFpon_masked_iff, decode_eq_command_iff, instrParams, ← valid_instrParams, valid_iff]
  obtain ⟨t, m, v, p, fp, fpv⟩ := paramsOfWord w
  constructor
  · rintro ⟨_, _, _, _, ⟨hlow, hhigh, hm, hv, hp, -⟩, ⟨⟩⟩
    exact ⟨⟨hm, hv, hp, rfl, rfl⟩, hlow, hhigh⟩
  · rintro ⟨⟨hm, hv, hp, rfl, rfl⟩, hlow, hhigh⟩
    exact ⟨p, t, m, v, ⟨hlow, hhigh, hm, hv, hp, by simp⟩, rfl⟩

theorem exists_decode_fpoff_iff (w : Word) :
    (∃ p t m v, decode w = .command (.fpoff p t m v)) ↔ rowMatches rowFpoff w = true := by
  simp only [rowMatches_iff, rowFpoff_masked_iff, decode_eq_command_iff, instrParams, ← valid_instrParams, valid_iff]
  obtain ⟨t, m, v, p, fp, fpv⟩ := paramsOfWord w
  constructor
  · rintro ⟨_, _, _, _, ⟨hlow, hhigh, hm, hv, hp, -⟩, ⟨⟩⟩
    exact ⟨⟨hm, hv, hp, rfl, rfl⟩, hlow, hhigh⟩
  · rintro ⟨⟨hm, hv, hp, rfl, rfl⟩, hlow, hhigh⟩
    exact ⟨p, t, m, v, ⟨hlow, hhigh, hm, hv, hp, by simp⟩, rfl⟩

/-- Two masked values of one word agree on the bits that both masks keep. -/
theorem masked_values_agree {w m m' v v' : Word} (h : w &&& m = v) (h' : w &&& m' = v') : v &&& m' = v' &&& m := by
  rw [← h, ← h', BitVec.and_assoc, BitVec.and_assoc, BitVec.and_comm m m']

/-- The patterns are pairwise disjoint: any two rows differ on a bit that both fix (30_encoding.md R48). -/
theorem opRows_pairwise_disjoint (w : Word) :
    opRows.Pairwise fun r r' => ¬ (w &&& r.mask = r.value ∧ w &&& r'.mask = r'.value) := by
  have hdiffer : opRows.Pairwise fun r r' => r.value &&& r'.mask ≠ r'.value &&& r.mask := by decide
  exact hdiffer.imp fun hne ⟨h, h'⟩ => hne (masked_values_agree h h')

/-- Settles O9: a row matches exactly the words of its command, and two rows differ on a bit that both fix. -/
theorem patternsSelectTheCommands : Obligations.PatternsSelectTheCommands := by
  intro w
  rw [← temp_toNat]
  exact ⟨(exists_decode_on_iff w).trans (rowMatches_iff rowOn w),
    (exists_decode_off_iff w).trans (rowMatches_iff rowOff w),
    (exists_decode_fpon_iff w).trans (rowMatches_iff rowFpon w),
    (exists_decode_fpoff_iff w).trans (rowMatches_iff rowFpoff w), opRows_pairwise_disjoint w⟩

/-! ### The invalid words -/

theorem mode_le_three_iff (w : Word) : (paramsOfWord w).mode.toNat ≤ 3 ↔ w.getLsbD 8 = false := by
  rw [three_bits_le_three_iff]
  simp [paramsOfWord]

theorem vol_le_three_iff (w : Word) : (paramsOfWord w).vol.toNat ≤ 3 ↔ w.getLsbD 11 = false := by
  rw [three_bits_le_three_iff]
  simp [paramsOfWord]

theorem power_le_one_iff (w : Word) : (paramsOfWord w).power.toNat ≤ 1 ↔ w.getLsbD 13 = false := by
  rw [two_bits_le_one_iff]
  simp [paramsOfWord]

/-- The valid words by their bits (40_commands.md R61). -/
theorem valid_word_iff (w : Word) :
    valid (paramsOfWord w) = true ↔ 18 ≤ bits w.toNat 5 0 ∧ bits w.toNat 5 0 ≤ 32 ∧ w.getLsbD 8 = false
      ∧ w.getLsbD 11 = false ∧ w.getLsbD 13 = false ∧ (w.getLsbD 15 = true ∨ w.getLsbD 14 = false) := by
  rw [valid_iff, temp_toNat, mode_le_three_iff, vol_le_three_iff, power_le_one_iff]
  rfl

theorem step_start_of_invalid {s : State} {w : Word} {rest : List HostEvent} (hs : s.events = .start w :: rest)
    (h : valid (paramsOfWord w) = false) : step s = .next (raiseInvalidParameters (setEvents rest s)) := by
  rw [step_cons hs, hostStep_eq, afterEvent, start_of_invalid _ h]

/-- Settles O10: the invalid words are those that fail one of the conditions of a valid word. -/
theorem invalidWordsAreRejected : Obligations.InvalidWordsAreRejected := by
  intro w
  rw [decode_eq_invalid_iff]
  refine ⟨?_, fun h s rest hs => ⟨_, step_start_of_invalid hs h, rfl⟩⟩
  rw [← Bool.not_eq_true, valid_word_iff]
  simp only [not_and_or, not_or, Nat.not_le, Bool.not_eq_true, Bool.not_eq_false]

/-! ### The fields of the payload -/

/-- Several Puts, in order. -/
def putAll (P : Payload) (fvs : List (FieldPos × Nat)) : Payload := fvs.foldl (fun Q fv => put Q fv.1 fv.2) P

/-- The six Puts before the checksum's (41_payload_builder.md R70). -/
def operandPuts (L : Layout) (p : Params) : List (FieldPos × Nat) :=
  [(L.temp, tempField p), (L.cmd, cmdCode p), (L.mode, modeField p), (L.volSet, volSet p),
    (L.volLevel, volLevel p), (L.fullPower, fullPowerFlag p)]

/-- The checksum's Put, of the checksum of what stands before it (41_payload_builder.md R82). -/
def checksumPut (L : Layout) (p : Params) : FieldPos × Nat :=
  (L.checksum, (checksum (payloadBeforeChecksum L p)).toNat)

theorem payloadBeforeChecksum_eq_putAll (L : Layout) (p : Params) :
    payloadBeforeChecksum L p = putAll L.base (operandPuts L p) := rfl

theorem buildPayload_eq_putAll (L : Layout) (p : Params) :
    buildPayload L p = putAll L.base (operandPuts L p ++ [checksumPut L p]) := rfl

theorem getElem_put (P : Payload) (f : FieldPos) (v : Nat) (i : Fin 13) :
    (put P f v)[i] = if f.byte = i then P[i] ||| BitVec.ofNat 8 (v <<< f.off) else P[i] := by
  rw [← byteAt_fin, ← byteAt_fin, byteAt_put]
  simp only [Fin.ext_iff]

/-- A byte after several Puts is or-ed with the shifted values of the fields that lie in it. -/
theorem getElem_putAll (P : Payload) (fvs : List (FieldPos × Nat)) (i : Fin 13) :
    (putAll P fvs)[i] = fvs.foldl
      (fun acc fv => if fv.1.byte = i then acc ||| BitVec.ofNat 8 (fv.2 <<< fv.1.off) else acc) P[i] := by
  induction fvs generalizing P with
  | nil => rfl
  | cons fv fvs ih => rw [putAll, List.foldl_cons, ← putAll, ih, getElem_put, List.foldl_cons]

/-- Settles O33: the payload is BASE after seven Puts. -/
theorem payloadClosedForm : Obligations.PayloadClosedForm := fun L p i _ _ =>
  getElem_putAll L.base (operandPuts L p ++ [checksumPut L p]) i

/-- Puts of values that fit, into fields that are all disjoint from `f`, leave the value of `f` as it was. -/
theorem fieldValue_putAll_other (P : Payload) {f : FieldPos} (hw : 1 ≤ f.width) (ho : f.off + f.width ≤ 8)
    (fvs : List (FieldPos × Nat)) (hd : ∀ fv ∈ fvs, Layout.Disjoint f fv.1) (hv : ∀ fv ∈ fvs, fv.2 < 2 ^ fv.1.width) :
    fieldValue (putAll P fvs) f = fieldValue P f := by
  induction fvs generalizing P with
  | nil => rfl
  | cons fv fvs ih =>
    rw [List.forall_mem_cons] at hd hv
    exact (ih (put P fv.1 fv.2) hd.2 hv.2).trans (fieldValue_put_other P f fv.1 fv.2 hw ho hd.1 hv.1)

/-- Puts of values that fit, into pairwise disjoint fields that are zero: each field reads back its value. -/
theorem fieldValue_putAll_of_mem (P : Payload) (fvs : List (FieldPos × Nat))
    (hin : ∀ fv ∈ fvs, 1 ≤ fv.1.width ∧ fv.1.off + fv.1.width ≤ 8)
    (hd : fvs.Pairwise fun a b => Layout.Disjoint a.1 b.1) (hv : ∀ fv ∈ fvs, fv.2 < 2 ^ fv.1.width)
    (hz : ∀ fv ∈ fvs, fieldValue P fv.1 = 0) : ∀ fv ∈ fvs, fieldValue (putAll P fvs) fv.1 = fv.2 := by
  induction fvs generalizing P with
  | nil => simp
  | cons g fvs ih =>
    rw [List.forall_mem_cons] at hin hv hz
    rw [List.pairwise_cons] at hd
    obtain ⟨⟨hw, ho⟩, hin⟩ := hin
    refine List.forall_mem_cons.2 ⟨?_, ih (put P g.1 g.2) hin hd.2 hv.2 fun fv hfv => ?_⟩
    · exact (fieldValue_putAll_other (put P g.1 g.2) hw ho fvs hd.1 hv.2).trans
        (fieldValue_put_self P g.1 g.2 hw ho hv.1 hz.1)
    · rw [fieldValue_put_other P fv.1 g.1 g.2 (hin fv hfv).1 (hin fv hfv).2 (disjoint_symm (hd.1 fv hfv)) hv.1]
      exact hz.2 fv hfv

theorem operandPuts_fit {L : Layout} (hL : L.WellFormed) {p : Params} (hp : valid p = true) :
    ∀ fv ∈ operandPuts L p, fv.2 < 2 ^ fv.1.width := by
  simpa [operandPuts] using values_fit hL hp

/-- The seven Puts go to the seven fields of the LAYOUT, in order. -/
theorem map_fst_puts (L : Layout) (p : Params) :
    (operandPuts L p ++ [checksumPut L p]).map Prod.fst = L.fields := rfl

/-- The seven Puts go to pairwise disjoint fields (30_encoding.md R43, W3). -/
theorem puts_pairwise_disjoint {L : Layout} (hL : L.WellFormed) (p : Params) :
    (operandPuts L p ++ [checksumPut L p]).Pairwise fun a b => Layout.Disjoint a.1 b.1 := by
  rw [← List.pairwise_map, map_fst_puts]
  exact hL.2.2.1

/-- Every field of the payload reads back what was put into it (30_encoding.md R46). -/
theorem fieldValue_buildPayload {L : Layout} (hL : L.WellFormed) {p : Params} (hp : valid p = true) :
    ∀ fv ∈ operandPuts L p ++ [checksumPut L p], fieldValue (buildPayload L p) fv.1 = fv.2 := by
  have hfield : ∀ fv ∈ operandPuts L p ++ [checksumPut L p], fv.1 ∈ L.fields := fun fv hfv => by
    rw [← map_fst_puts L p]
    exact List.mem_map_of_mem hfv
  have hfit : ∀ fv ∈ operandPuts L p ++ [checksumPut L p], fv.2 < 2 ^ fv.1.width := by
    rw [List.forall_mem_append, List.forall_mem_singleton]
    exact ⟨operandPuts_fit hL hp, checksum_fits hL _⟩
  exact fieldValue_putAll_of_mem L.base _ (fun fv hfv => hL.1 _ (hfield fv hfv)) (puts_pairwise_disjoint hL p) hfit
    fun fv hfv => fieldValue_base hL (hfield fv hfv)

/-- Until its own Put the checksum's field is zero (41_payload_builder.md R82). -/
theorem fieldValue_checksum_before {L : Layout} (hL : L.WellFormed) {p : Params} (hp : valid p = true) :
    fieldValue (payloadBeforeChecksum L p) L.checksum = 0 := by
  have hmem : L.checksum ∈ L.fields := by simp [Layout.fields]
  obtain ⟨hw, ho⟩ := hL.1 _ hmem
  obtain ⟨-, -, hcross⟩ := List.pairwise_append.1 (puts_pairwise_disjoint hL p)
  have hd : ∀ fv ∈ operandPuts L p, Layout.Disjoint L.checksum fv.1 := fun fv hfv =>
    disjoint_symm (hcross fv hfv (checksumPut L p) (List.mem_singleton_self _))
  rw [payloadBeforeChecksum_eq_putAll, fieldValue_putAll_other _ hw ho _ hd (operandPuts_fit hL hp)]
  exact fieldValue_base hL hmem

/-- Bit `b` of byte `i` after clearing a field: 0 in the field, unchanged outside it. -/
theorem getLsbD_byteAt_clearField (P : Payload) (f : FieldPos) (i b : Nat) (hb : b < 8) :
    (byteAt (clearField P f) i).getLsbD b = ((byteAt P i).getLsbD b && !f.hasBit i b) := by
  unfold clearField FieldPos.hasBit
  rw [byteAt_set]
  by_cases h : f.byte.val = i
  · subst h
    rw [if_pos rfl, byteAt_fin, BitVec.getLsbD_and, BitVec.getLsbD_not, BitVec.getLsbD_ofNat, Nat.testBit_shiftLeft,
      Nat.testBit_two_pow_sub_one]
    have hlt : f.off ≤ b → (b - f.off < f.width ↔ b < f.off + f.width) := by omega
    by_cases hle : f.off ≤ b <;> simp [hb, hle, hlt]
  · simp [h]

/-- A bit of a field that is zero is 0. -/
theorem getLsbD_of_fieldValue_eq_zero {P : Payload} {f : FieldPos} (hw : 1 ≤ f.width) (hz : fieldValue P f = 0)
    {i b : Nat} (h : f.hasBit i b = true) : (byteAt P i).getLsbD b = false := by
  simp only [FieldPos.hasBit, Bool.and_eq_true, beq_iff_eq, decide_eq_true_eq] at h
  obtain ⟨⟨rfl, hle⟩, hlt⟩ := h
  have hbit := testBit_fieldValue P f hw (b - f.off)
  rw [hz, Nat.zero_testBit, decide_eq_true (by omega : b - f.off < f.width), Nat.add_sub_cancel' hle] at hbit
  simpa using hbit.symm

/-- Clearing a field undoes a Put into it, when the field was zero. -/
theorem clearField_put {P : Payload} {f : FieldPos} {v : Nat} (hw : 1 ≤ f.width) (hv : v < 2 ^ f.width)
    (hz : fieldValue P f = 0) : clearField (put P f v) f = P := by
  refine payload_ext fun i _ => BitVec.eq_of_getLsbD_eq fun b hb => ?_
  rw [getLsbD_byteAt_clearField _ _ _ _ hb]
  cases h : f.hasBit i b with
  | true => simp [getLsbD_of_fieldValue_eq_zero hw hz h]
  | false => simp [getLsbD_byteAt_put_outside P f v i b hv h hb]

theorem tempField_bounds {p : Params} (hp : valid p = true) : 1 ≤ tempField p ∧ tempField p ≤ 15 := by
  obtain ⟨hlow, hhigh, -⟩ := (valid_iff p).1 hp
  simp only [tempField, Config.tempBias]
  omega

theorem cmdCode_eq (p : Params) :
    cmdCode p = if p.fpv.toNat = 0 then (if p.power.toNat = 1 then 1 else 2) else (if p.fp.toNat = 1 then 6 else 7) := by
  simp only [cmdCode, Bool.toNat_eq_zero, Bool.toNat_eq_one]

theorem fullPowerFlag_eq (p : Params) : fullPowerFlag p = p.fpv.toNat := by
  unfold fullPowerFlag
  cases p.fpv <;> rfl

/-- Settles O30: each field reads back its Put, and clearing the checksum's field gives back the payload the checksum
was computed from. -/
theorem fieldsReadBack : Obligations.FieldsReadBack := by
  intro L w hL hp P
  have hread := fieldValue_buildPayload hL hp
  simp only [operandPuts, checksumPut, List.cons_append, List.nil_append, List.forall_mem_cons, List.not_mem_nil,
    false_implies, implies_true, and_true] at hread
  obtain ⟨htemp, hcmd, hmode, hvolSet, hvolLevel, hfull, hcheck⟩ := hread
  have hclear : clearField P L.checksum = payloadBeforeChecksum L (paramsOfWord w) :=
    clearField_put (hL.1 L.checksum (by simp [Layout.fields])).1 (checksum_fits hL _) (fieldValue_checksum_before hL hp)
  refine ⟨htemp.trans ?_, ?_, hcmd.trans ?_, hmode.trans (mode_toNat w), hvolSet.trans ?_, hvolLevel.trans ?_,
    hfull.trans ?_, ?_⟩
  · rw [tempField, temp_toNat]
  · rw [htemp]
    exact tempField_bounds hp
  · rw [cmdCode_eq, fpv_toNat, fp_toNat, power_toNat]
  · rw [volSet, vol_toNat]
  · rw [volLevel, vol_toNat]
  · rw [fullPowerFlag_eq, fpv_toNat]
  · rw [hclear, hcheck]

/-! ### The word of a flag line -/

/-- Parameters are equal when their fields hold the same numbers. -/
theorem params_ext {p q : Params} (ht : p.temp.toNat = q.temp.toNat) (hm : p.mode.toNat = q.mode.toNat)
    (hv : p.vol.toNat = q.vol.toNat) (hp : p.power.toNat = q.power.toNat) (hfp : p.fp.toNat = q.fp.toNat)
    (hfpv : p.fpv.toNat = q.fpv.toNat) : p = q := by
  cases p
  cases q
  simp only [Params.mk.injEq]
  have hinj := Function.LeftInverse.injective Bool.ofNat_toNat
  exact ⟨BitVec.eq_of_toNat_eq ht, BitVec.eq_of_toNat_eq hm, BitVec.eq_of_toNat_eq hv, BitVec.eq_of_toNat_eq hp,
    hinj hfp, hinj hfpv⟩

/-- The word of numbers that fit their fields (30_encoding.md R56). -/
theorem wordOfParams_ofNat {t m v p : Nat} (fp fpv : Bool) (ht : t < 64) (hm : m < 8) (hv : v < 8) (hp : p < 4) :
    wordOfParams ⟨BitVec.ofNat 6 t, BitVec.ofNat 3 m, BitVec.ofNat 3 v, BitVec.ofNat 2 p, fp, fpv⟩ =
      BitVec.ofNat 16 (t + 64 * m + 512 * v + 4096 * p + 16384 * fp.toNat + 32768 * fpv.toNat) := by
  have hfp := fp.toNat_le
  have hfpv := fpv.toNat_le
  rw [wordOfParams_eq_iff]
  apply params_ext <;>
    simp only [temp_toNat, mode_toNat, vol_toNat, power_toNat, fp_toNat, fpv_toNat, bits, BitVec.toNat_ofNat] <;>
    omega

theorem fitted_of_lt {n v : Nat} (h : v < 2 ^ n) : fitted n v = some (BitVec.ofNat n v) := if_pos h

theorem bind_fitted_of_le {o : Option Nat} {n v : Nat} (ho : o = some v) (h : 2 ^ n ≤ v) : o.bind (fitted n) = none := by
  subst ho
  exact if_neg (Nat.not_lt.2 h)

theorem fullPowerBits_of_lt {v : Nat} (h : v < 2) : fullPowerBits (some v) = some (decide (v = 1), true) := if_pos h

theorem fullPowerBits_of_le {v : Nat} (h : 2 ≤ v) : fullPowerBits (some v) = none := if_neg (Nat.not_lt.2 h)

/-- A flag line whose numbers fit has the word of its numbers. -/
theorem flagWord_of_lt {p t m v : Nat} (hp : p < 4) (ht : t < 64) (hm : m < 8) (hv : v < 8) {o : Option Nat}
    {fp fpv : Bool} (hf : fullPowerBits o = some (fp, fpv)) :
    flagWord ⟨some p, some t, some m, some v, o⟩ =
      some (BitVec.ofNat 16 (t + 64 * m + 512 * v + 4096 * p + 16384 * fp.toNat + 32768 * fpv.toNat)) := by
  simp only [flagWord, Option.bind_some, fitted_of_lt (n := 2) hp, fitted_of_lt (n := 6) ht, fitted_of_lt (n := 3) hm,
    fitted_of_lt (n := 3) hv, hf, wordOfParams_ofNat fp fpv ht hm hv hp]

/-- A flag line has no word when one of its parts has no value. -/
theorem flagWord_eq_none {l : FlagLine}
    (h : l.power.bind (fitted 2) = none ∨ l.temp.bind (fitted 6) = none ∨ l.mode.bind (fitted 3) = none
      ∨ l.vol.bind (fitted 3) = none ∨ fullPowerBits l.fullPower = none) : flagWord l = none := by
  unfold flagWord
  split
  · next hp ht hm hv hf => simp [hp, ht, hm, hv, hf] at h
  · rfl

/-- Settles O50: the word's fields are the numbers, and a part without a value leaves no word. -/
theorem flagLineWord : Obligations.FlagLineWord := by
  refine ⟨fun p t m v hp ht hm hv => ⟨?_, fun f hf => ?_⟩,
    fun l h => flagWord_eq_none ?_, fun l n h => flagWord_eq_none ?_⟩
  · exact flagWord_of_lt (fp := false) (fpv := false) hp ht hm hv rfl
  · have hbit : (decide (f = 1)).toNat = f := by interval_cases f <;> rfl
    rw [flagWord_of_lt hp ht hm hv (fullPowerBits_of_lt hf), hbit]
    rfl
  · rcases h with h | h | h | h <;> simp [h]
  · obtain ⟨h, hn⟩ | ⟨h, hn⟩ | ⟨h, hn⟩ | ⟨h, hn⟩ | ⟨h, hn⟩ := h
    · exact .inl (bind_fitted_of_le h hn)
    · exact .inr (.inl (bind_fitted_of_le h hn))
    · exact .inr (.inr (.inl (bind_fitted_of_le h hn)))
    · exact .inr (.inr (.inr (.inl (bind_fitted_of_le h hn))))
    · exact .inr (.inr (.inr (.inr (h ▸ fullPowerBits_of_le hn))))

/-! ### The worked examples and REF -/

/-- Settles O14: the decoder evaluated on the fourteen words of the table. -/
theorem workedEncodingExamples : Obligations.WorkedEncodingExamples := by
  unfold Obligations.WorkedEncodingExamples
  decide

/-- Settles O36: the four conditions evaluated on REF's seven fields. -/
theorem referenceLayoutWellFormed : Obligations.ReferenceLayoutWellFormed :=
  ⟨by decide, by decide, rfl, rfl, rfl, rfl, rfl, rfl, rfl⟩

/-! ### The pairs of a frame -/

theorem dataPair_eq (b : Bool) : dataPair b = ⟨488, if b then 1392 else 464⟩ := rfl

theorem framePair_data (P : Payload) {d : Nat} (hd : d < 104) : framePair P (1 + d) = dataPair (dataBit P d) := by
  rw [framePair, if_neg (by omega), Config.nBits_eq, if_pos (by omega), Nat.add_sub_cancel_left]

/-- Settles O37: the leader, a pair for each data bit, and the trailer. -/
theorem frameOfAnyPayload : Obligations.FrameOfAnyPayload := by
  refine fun P => ⟨frame_getElem P 0 (by decide), frame_getElem P 105 (by decide), fun d hd => ?_⟩
  have hk : 1 + d < 106 := by omega
  rw [Vector.getElem?_eq_getElem hk, frame_getElem P (1 + d) hk, framePair_data P hd, dataPair_eq]
  rfl

end Sys2Proof.Machine

/-! The statements about the commands (40_commands.md): START in every state, the valid words, the four commands, the
independence of history, and the host's reads. -/

namespace Sys2Proof.Machine

/-! ### START in every state -/

theorem step_start_of_valid {s : State} {w : Word} {rest : List HostEvent} (hs : s.events = .start w :: rest)
    (h : valid (paramsOfWord w) = true) :
    step s = .next (complete Config.layout (paramsOfWord w) (setEvents rest s)) := by
  rw [step_cons hs, hostStep_eq, afterEvent, start_of_valid _ h]

/-- Taking the event and raising InvalidParameters writes ST and the results alone (60_exceptions.md R117). -/
theorem rejectedAs_raiseInvalidParameters (es : List HostEvent) (s : State) :
    RejectedAs s (raiseInvalidParameters (setEvents es s)) := ⟨rfl, rfl, rfl, rfl, rfl, rfl⟩

/-- Settles O7: a valid word completes its command, an invalid one raises InvalidParameters. -/
theorem startCompletesOrRejects : Obligations.StartCompletesOrRejects := fun s _ rest hs =>
  ⟨fun h => ⟨_, step_start_of_valid hs h, complete_st _ _ _, complete_results _ _ _⟩,
    fun h => ⟨_, step_start_of_invalid hs h, rejectedAs_raiseInvalidParameters rest s⟩⟩

/-- A completed command leaves the same block whatever state it found (40_commands.md R67). -/
theorem sameBlock_complete (L : Layout) (p : Params) (s s' : State) :
    SameBlock (complete L p s') (complete L p s) where
  st := by rw [complete_st, complete_st]
  results := by rw [complete_results, complete_results]
  pulse := by rw [complete_pulse, complete_pulse]
  sample := by rw [complete_sample, complete_sample]
  clk := by rw [complete_clk, complete_clk]
  pos := by rw [complete_pos, complete_pos]

/-- Settles O24: both steps complete the same command, which leaves the same block in both. -/
theorem resultsIndependentOfHistory : Obligations.ResultsIndependentOfHistory := by
  intro s s' w rest rest' hs hs' h
  obtain ⟨hst, hresults, hpulse, hsample, hclk, hpos⟩ :=
    sameBlock_complete Config.layout (paramsOfWord w) (setEvents rest s) (setEvents rest' s')
  exact ⟨_, _, step_start_of_valid hs h, step_start_of_valid hs' h, hst, hresults, hpulse, hsample, hclk, hpos⟩

/-! ### The valid words -/

theorem valid_iff_exists_command (w : Word) :
    valid (paramsOfWord w) = true ↔ ∃ i, decode w = .command i := by
  rw [decode_spec]
  cases valid (paramsOfWord w) <;> simp

/-- A property of some command is a property of one of the four (30_encoding.md R47). -/
theorem exists_instr_iff (Q : Instr → Prop) :
    (∃ i, Q i) ↔ (∃ t m v, Q (.on t m v)) ∨ (∃ t m v, Q (.off t m v)) ∨ (∃ p t m v, Q (.fpon p t m v))
      ∨ ∃ p t m v, Q (.fpoff p t m v) := by
  constructor
  · rintro ⟨i, h⟩
    cases i with
    | on t m v => exact .inl ⟨t, m, v, h⟩
    | off t m v => exact .inr (.inl ⟨t, m, v, h⟩)
    | fpon p t m v => exact .inr (.inr (.inl ⟨p, t, m, v, h⟩))
    | fpoff p t m v => exact .inr (.inr (.inr ⟨p, t, m, v, h⟩))
  · rintro (⟨t, m, v, h⟩ | ⟨t, m, v, h⟩ | ⟨p, t, m, v, h⟩ | ⟨p, t, m, v, h⟩) <;> exact ⟨_, h⟩

/-- A valid word matches one of the four patterns, and no other word does (40_commands.md R61). -/
theorem valid_iff_exists_row (w : Word) :
    valid (paramsOfWord w) = true ↔ ∃ r ∈ opRows, rowMatches r w = true := by
  rw [valid_iff_exists_command, exists_instr_iff, exists_decode_on_iff, exists_decode_off_iff, exists_decode_fpon_iff,
    exists_decode_fpoff_iff]
  simp [opRows]

/-- Settles O8: the fields are the word's bits, and a word is valid when it decodes to a command, which has a row. -/
theorem validWordsMatchAPattern : Obligations.ValidWordsMatchAPattern := by
  refine fun w => ⟨?_, valid_iff_exists_row w⟩
  rw [valid_iff, ← Bool.toNat_eq_one, ← Bool.toNat_eq_zero, temp_toNat, mode_toNat, vol_toNat, power_toNat, fp_toNat,
    fpv_toNat]

/-! ### The operands in range -/

theorem operandsInRange_iff (t : BitVec 6) (m v : BitVec 3) :
    operandsInRange t m v = true ↔ OperandsValid t m v := by
  simp [operandsInRange, and_assoc]

theorem wf_on_iff (t : BitVec 6) (m v : BitVec 3) : (Instr.on t m v).wf = true ↔ OperandsValid t m v :=
  operandsInRange_iff t m v

theorem wf_off_iff (t : BitVec 6) (m v : BitVec 3) : (Instr.off t m v).wf = true ↔ OperandsValid t m v :=
  operandsInRange_iff t m v

theorem wf_fpon_iff (p : BitVec 2) (t : BitVec 6) (m v : BitVec 3) :
    (Instr.fpon p t m v).wf = true ↔ p.toNat ≤ 1 ∧ OperandsValid t m v := by
  rw [Instr.wf, Bool.and_eq_true, decide_eq_true_iff, operandsInRange_iff]

theorem wf_fpoff_iff (p : BitVec 2) (t : BitVec 6) (m v : BitVec 3) :
    (Instr.fpoff p t m v).wf = true ↔ p.toNat ≤ 1 ∧ OperandsValid t m v :=
  wf_fpon_iff p t m v

/-- TEMP out of range leaves the operands out of range. -/
theorem not_operandsValid {t : BitVec 6} (m v : BitVec 3) (ht : t.toNat < 18 ∨ 32 < t.toNat) :
    ¬ OperandsValid t m v := by
  rintro ⟨hlow, hhigh, -, -⟩
  omega

/-- POWER or TEMP out of range leaves a full-power command's operands out of range. -/
theorem not_power_and_operandsValid {p : BitVec 2} {t : BitVec 6} (m v : BitVec 3)
    (h : 1 < p.toNat ∨ t.toNat < 18 ∨ 32 < t.toNat) : ¬ (p.toNat ≤ 1 ∧ OperandsValid t m v) := by
  rintro ⟨hp, hlow, hhigh, -, -⟩
  omega

/-! ### What a command leaves -/

theorem exec_of_wf {i : Instr} (hi : i.wf = true) (s : State) :
    exec i s = .next (complete Config.layout (instrParams i) s) := by
  rw [exec_eq_start, start_of_valid _ ((valid_instrParams i).trans hi)]

/-- START with the word of an ill-formed command is rejected (40_commands.md R61). -/
theorem step_rejects_of_not_wf {i : Instr} (hi : ¬ i.wf = true) {s : State} {rest : List HostEvent}
    (hs : s.events = .start (encode i) :: rest) : ∃ s', step s = .next s' ∧ RejectedAs s s' := by
  have hinvalid : valid (paramsOfWord (encode i)) = false := by
    rw [encode, paramsOfWord_wordOfParams, valid_instrParams]
    exact Bool.eq_false_iff.2 hi
  exact ⟨_, step_start_of_invalid hs hinvalid, rejectedAs_raiseInvalidParameters rest s⟩

/-- Clearing the checksum's field gives back the payload the checksum was computed from (41_payload_builder.md
R83). -/
theorem clearField_buildPayload {L : Layout} (hL : L.WellFormed) {p : Params} (hp : valid p = true) :
    clearField (buildPayload L p) L.checksum = payloadBeforeChecksum L p :=
  clearField_put (hL.1 L.checksum (by simp [Layout.fields])).1 (checksum_fits hL _) (fieldValue_checksum_before hL hp)

/-- The payload holds the values its rules give the fields, and BASE's constant bits (30_encoding.md R46). -/
theorem payloadHolds_buildPayload {L : Layout} (hL : L.WellFormed) {p : Params} (hp : valid p = true) :
    PayloadHolds L (buildPayload L p) (tempField p) (cmdCode p) (modeField p) (volSet p) (volLevel p)
      (fullPowerFlag p) := by
  have hread := fieldValue_buildPayload hL hp
  simp only [operandPuts, checksumPut, List.cons_append, List.nil_append, List.forall_mem_cons, List.not_mem_nil,
    false_implies, implies_true, and_true] at hread
  obtain ⟨htemp, hcmd, hmode, hvolSet, hvolLevel, hfull, hcheck⟩ := hread
  refine ⟨htemp, hcmd, hmode, hvolSet, hvolLevel, hfull, ?_, constantBitsNeverVary L p hL hp⟩
  rw [clearField_buildPayload hL hp, hcheck]

theorem volSet_eq (p : Params) : volSet p = if p.vol = 0 then 0 else 1 := by
  simp only [volSet, BitVec.toNat_eq, BitVec.toNat_zero, BitVec.ofNat_eq_ofNat]

/-- A command that completes leaves the code, the flag and the operands of its parameters. -/
theorem completedAs_complete {p : Params} (hp : valid p = true) (s : State) :
    CompletedAs (cmdCode p) (fullPowerFlag p) p.temp p.mode p.vol (complete Config.layout p s) := by
  have hL : Config.layout.WellFormed := referenceLayoutWellFormed.1
  have hpayload := payloadHolds_buildPayload hL hp
  rw [volSet_eq, volLevel_eq] at hpayload
  refine ⟨complete_st _ _ _, ⟨_, complete_results _ _ _, hpayload, rfl, complete_pulse _ _ _⟩, ?_, ?_, ?_⟩
  · rw [complete_sample, complete_pulse]
  · rw [complete_clk, complete_pulse]
  · rw [complete_pos, complete_pulse]

theorem exec_completes_of_wf {i : Instr} (hi : i.wf = true) (s : State) :
    ∃ s', exec i s = .next s' ∧ CompletedAs (cmdCode (instrParams i)) (fullPowerFlag (instrParams i))
      (instrParams i).temp (instrParams i).mode (instrParams i).vol s' :=
  ⟨_, exec_of_wf hi s, completedAs_complete ((valid_instrParams i).trans hi) s⟩

/-- With full power specified POWER is not used: it changes no result (40_commands.md R65). -/
theorem transform_fpon_power (L : Layout) (p q : BitVec 2) (t : BitVec 6) (m v : BitVec 3) :
    transform L (instrParams (.fpon p t m v)) = transform L (instrParams (.fpon q t m v)) := by
  have hputs : operandPuts L (instrParams (.fpon p t m v)) = operandPuts L (instrParams (.fpon q t m v)) := rfl
  simp only [transform, buildPayload, payloadBeforeChecksum_eq_putAll, hputs]

/-! ### The word of a command -/

/-- The row of a command in the command map (30_encoding.md R48). -/
def rowOf : Instr → OpRow
  | .on _ _ _ => rowOn
  | .off _ _ _ => rowOff
  | .fpon _ _ _ _ => rowFpon
  | .fpoff _ _ _ _ => rowFpoff

theorem rowMatches_of_decode {w : Word} {i : Instr} (h : decode w = .command i) : rowMatches (rowOf i) w = true := by
  cases i with
  | on t m v => exact (exists_decode_on_iff w).1 ⟨t, m, v, h⟩
  | off t m v => exact (exists_decode_off_iff w).1 ⟨t, m, v, h⟩
  | fpon p t m v => exact (exists_decode_fpon_iff w).1 ⟨p, t, m, v, h⟩
  | fpoff p t m v => exact (exists_decode_fpoff_iff w).1 ⟨p, t, m, v, h⟩

/-- The word of a well-formed command has its row's fixed bits and decodes to the command (30_encoding.md R48). -/
theorem encode_masked_and_decode {i : Instr} (hi : i.wf = true) :
    encode i &&& (rowOf i).mask = (rowOf i).value ∧ decode (encode i) = .command i := by
  have hdecode := decodeOfEncode i hi
  obtain ⟨hmasked, -⟩ := (rowMatches_iff _ _).1 (rowMatches_of_decode hdecode)
  exact ⟨hmasked, hdecode⟩

theorem bits_le (n hi lo : Nat) : bits n hi lo ≤ n := (Nat.mod_le _ _).trans (Nat.div_le_self _ _)

/-- TEMP, the low bits of a word, alone makes the word of a command at least 18. -/
theorem le_toNat_of_decode {w : Word} {i : Instr} (h : decode w = .command i) : 18 ≤ w.toNat := by
  obtain ⟨-, hlow, -⟩ := (rowMatches_iff _ _).1 (rowMatches_of_decode h)
  rw [temp_toNat] at hlow
  exact hlow.trans (bits_le _ _ _)

/-! ### The four commands -/

/-- Settles O15: ON's word is in its row, its parameters have command code 1 and no full power, and V1 is evaluated. -/
theorem onStoresPlainPowerOn : Obligations.OnStoresPlainPowerOn := by
  refine ⟨fun t m v h => encode_masked_and_decode ((wf_on_iff t m v).2 h),
    fun t m v s h => exec_completes_of_wf ((wf_on_iff t m v).2 h) s,
    fun t m v s rest ht _ _ hs => step_rejects_of_not_wf (mt (wf_on_iff t m v).1 (not_operandsValid m v ht)) hs,
    by decide, fun s => ⟨_, _, exec_of_wf (by decide) s, complete_results _ _ _, ?_, ?_⟩⟩
  · decide +kernel
  · decide +kernel

/-- Settles O16: as for ON, with command code 2. -/
theorem offStoresPlainPowerOff : Obligations.OffStoresPlainPowerOff := by
  refine ⟨fun t m v h => encode_masked_and_decode ((wf_off_iff t m v).2 h),
    fun t m v s h => exec_completes_of_wf ((wf_off_iff t m v).2 h) s,
    fun t m v s rest ht _ _ hs => step_rejects_of_not_wf (mt (wf_off_iff t m v).1 (not_operandsValid m v ht)) hs,
    ⟨by decide, by decide, fun w t m v h => le_toNat_of_decode h⟩,
    by decide, fun s => ⟨_, _, exec_of_wf (by decide) s, complete_results _ _ _, ?_⟩⟩
  decide +kernel

/-- Settles O17: the command code is 6 and the flag 1 by presence alone, so POWER is checked and then unused. -/
theorem fponStoresFullPowerOn : Obligations.FponStoresFullPowerOn := by
  refine ⟨fun p t m v hp h => encode_masked_and_decode ((wf_fpon_iff p t m v).2 ⟨hp, h⟩),
    fun p t m v s hp h => exec_completes_of_wf ((wf_fpon_iff p t m v).2 ⟨hp, h⟩) s,
    fun p t m v s rest h _ _ hs =>
      step_rejects_of_not_wf (mt (wf_fpon_iff p t m v).1 (not_power_and_operandsValid m v h)) hs,
    fun t m v s h => ⟨_, _, exec_of_wf ((wf_fpon_iff 0 t m v).2 ⟨by decide, h⟩) s,
      exec_of_wf ((wf_fpon_iff 1 t m v).2 ⟨by decide, h⟩) s, ?_⟩,
    by decide, by decide, fun p hp s =>
      ⟨_, transform Config.layout (instrParams (.fpon 0 27 3 2)),
        exec_of_wf ((wf_fpon_iff p 27 3 2).2 ⟨hp, by decide⟩) s, ?_, ?_⟩⟩
  · rw [complete_results, complete_results, transform_fpon_power]
  · rw [complete_results, transform_fpon_power]
  · decide +kernel

/-- Settles O18: presence of the full-power value sets the flag although the value is off, and the code is 7. -/
theorem fpoffStoresFullPowerOff : Obligations.FpoffStoresFullPowerOff := by
  refine ⟨fun p t m v hp h => encode_masked_and_decode ((wf_fpoff_iff p t m v).2 ⟨hp, h⟩),
    fun p t m v s hp h => exec_completes_of_wf ((wf_fpoff_iff p t m v).2 ⟨hp, h⟩) s,
    fun p t m v s rest h _ _ hs =>
      step_rejects_of_not_wf (mt (wf_fpoff_iff p t m v).1 (not_power_and_operandsValid m v h)) hs,
    by decide, fun s => ⟨_, _, exec_of_wf (by decide) s, complete_results _ _ _, ?_⟩⟩
  decide +kernel

/-! ### The host's reads -/

/-- ReadPayload is refused outside DONE, and for an index outside the space (20_memory.md R27). -/
theorem readPayload_refused {s : State} {i : Nat} (h : s.st ≠ .done ∨ 13 ≤ i) : readPayload i s = .refused := by
  obtain hst | hi := h
  · exact readPayload_of_not_done i hst
  · unfold readPayload
    split
    · exact dif_neg (Nat.not_lt.2 hi)
    · rfl

/-- ReadOut is refused outside DONE, and for an index outside the space (20_memory.md R27). -/
theorem readOut_refused {s : State} {j : Nat} (h : s.st ≠ .done ∨ 240 ≤ j) : readOut j s = .refused := by
  obtain hst | hj := h
  · exact readOut_of_not_done j hst
  · unfold readOut
    split
    · exact dif_neg (Nat.not_lt.2 hj)
    · rfl

/-- A ReadPayload takes its event and records its answer, and changes nothing else (20_memory.md R35). -/
theorem step_readPayload {s : State} {i : Nat} {rest : List HostEvent} (hs : s.events = .readPayload i :: rest) :
    step s = .next { s with events := rest, answers := s.answers ++ [readPayload i s] } := step_cons hs

/-- A ReadOut takes its event and records its answer, and changes nothing else (20_memory.md R35). -/
theorem step_readOut {s : State} {j : Nat} {rest : List HostEvent} (hs : s.events = .readOut j :: rest) :
    step s = .next { s with events := rest, answers := s.answers ++ [readOut j s] } := step_cons hs

/-- Settles O22: the step of each read, with its answer in DONE and outside it. -/
theorem hostReads : Obligations.HostReads := by
  refine ⟨fun s rest hs => step_cons hs, fun s rest r i h hs hst hr => ?_, fun s rest r j h hs hst hr => ?_,
    fun s rest i hs h => ?_, fun s rest j hs h => ?_⟩
  · rw [step_readPayload hs, readPayload_of_done i hst hr, dif_pos h]
  · rw [step_readOut hs, readOut_of_done j hst hr, dif_pos h]
  · rw [step_readPayload hs, readPayload_refused h]
  · rw [step_readOut hs, readOut_refused h]

end Sys2Proof.Machine

/-! The statements about the Payload Builder (41_payload_builder.md): the checksum's self-check and its linearity, the
injectivity of the builder, and the number of 1 bits of a payload under REF. -/

namespace Sys2Proof.Machine

/-! ### The checksum's self-check -/

/-- Clearing a nibble-wide field changes no other nibble. -/
theorem nibble_clearField_other (P : Payload) {f : FieldPos} (hw : f.width = 4) (ho : f.off = 0 ∨ f.off = 4) {n : Nat}
    (hn : n ≠ 2 * f.byte.val + f.off / 4) : nibble (clearField P f) n = nibble P n := by
  refine BitVec.eq_of_getLsbD_eq fun b hb => ?_
  have hout : f.hasBit (n / 2) (4 * (n % 2) + b) = false := by
    simp only [FieldPos.hasBit, hw, Bool.and_eq_false_iff, beq_eq_false_iff_ne, decide_eq_false_iff_not]
    omega
  rw [getLsbD_nibble _ _ _ hb, getLsbD_byteAt_clearField _ _ _ _ (by omega), hout, getLsbD_nibble _ _ _ hb,
    Bool.not_false, Bool.and_true]

/-- Outside the range the checksum's field does not count in the checksum (41_payload_builder.md R82). -/
theorem checksum_clearField_of_not_mem {L : Layout} (hL : L.WellFormed) (P : Payload)
    (h : 2 * L.checksum.byte.val + L.checksum.off / 4 ∉ checksumRange) :
    checksum (clearField P L.checksum) = checksum P := by
  obtain ⟨-, -, -, -, -, -, hw, ho⟩ := hL.2.1
  exact checksum_congr fun n hn => nibble_clearField_other P hw ho fun heq => h (heq ▸ hn)

/-- Settles O32: the field holds the checksum of the payload with the field cleared, and clearing it changes nothing in
the range when the field lies outside. -/
theorem checksumSelfCheck : Obligations.ChecksumSelfCheck := by
  intro L p hL hp
  obtain ⟨-, -, -, -, -, -, hcheck, -⟩ := payloadHolds_buildPayload hL hp
  refine ⟨hcheck.symm, fun hout => ?_⟩
  rw [hcheck, checksum_clearField_of_not_mem hL _ hout]

/-! ### The payload determines the command -/

theorem temp_eq_of_tempField_eq {p q : Params} (hp : valid p = true) (hq : valid q = true)
    (h : tempField p = tempField q) : p.temp = q.temp := by
  obtain ⟨hplow, -⟩ := (valid_iff p).1 hp
  obtain ⟨hqlow, -⟩ := (valid_iff q).1 hq
  simp only [tempField, Config.tempBias] at h
  exact BitVec.eq_of_toNat_eq (by omega)

/-- The codes of FPON and FPOFF are the two from 6 on (41_payload_builder.md R74). -/
theorem fpv_eq_decide_cmdCode (p : Params) : p.fpv = decide (6 ≤ cmdCode p) := by
  unfold cmdCode
  cases p.fpv with
  | false => rw [if_pos rfl]; split <;> rfl
  | true => rw [if_neg Bool.noConfusion]; split <;> rfl

/-- FP is set for FPON alone, as a valid word without FPV has FP clear (40_commands.md R61). -/
theorem fp_eq_decide_cmdCode {p : Params} (hp : valid p = true) : p.fp = decide (cmdCode p = 6) := by
  obtain ⟨-, -, -, -, -, hfp⟩ := (valid_iff p).1 hp
  unfold cmdCode
  cases hfpv : p.fpv with
  | false =>
    rw [hfp.resolve_left (by simp [hfpv]), if_pos rfl]
    split <;> rfl
  | true => rw [if_neg Bool.noConfusion]; cases p.fp <;> rfl

/-- Without FPV the code is 1 for POWER on and 2 for POWER off (41_payload_builder.md R74). -/
theorem power_eq_two_sub_cmdCode {p : Params} (hp : valid p = true) (hfpv : p.fpv = false) :
    p.power.toNat = 2 - cmdCode p := by
  obtain ⟨-, -, -, -, hpower, -⟩ := (valid_iff p).1 hp
  unfold cmdCode
  rw [if_pos hfpv]
  split <;> simp only [Config.cmdOn, Config.cmdOff] <;> omega

/-- The command code tells FPV, FP and, without FPV, POWER (41_payload_builder.md R85). -/
theorem power_flags_of_cmdCode_eq {p q : Params} (hp : valid p = true) (hq : valid q = true)
    (h : cmdCode p = cmdCode q) : p.fpv = q.fpv ∧ p.fp = q.fp ∧ (p.fpv = false → p.power = q.power) := by
  have hfpv : p.fpv = q.fpv := by rw [fpv_eq_decide_cmdCode, h, ← fpv_eq_decide_cmdCode]
  refine ⟨hfpv, ?_, fun hp0 => BitVec.eq_of_toNat_eq ?_⟩
  · rw [fp_eq_decide_cmdCode hp, h, ← fp_eq_decide_cmdCode hq]
  · rw [power_eq_two_sub_cmdCode hp hp0, h, ← power_eq_two_sub_cmdCode hq (hfpv ▸ hp0)]

/-- Settles O34: each field of the payload reads back what its rule takes from the parameters. -/
theorem payloadDeterminesCommand : Obligations.PayloadDeterminesCommand := by
  intro L p q hL hp hq heq
  obtain ⟨htemp, hcmd, hmode, -, hvol, -⟩ := payloadHolds_buildPayload hL hp
  obtain ⟨htemp', hcmd', hmode', -, hvol', -⟩ := payloadHolds_buildPayload hL hq
  rw [← heq] at htemp' hcmd' hmode' hvol'
  rw [volLevel_eq] at hvol hvol'
  exact ⟨temp_eq_of_tempField_eq hp hq (htemp.symm.trans htemp'), BitVec.eq_of_toNat_eq (hmode.symm.trans hmode'),
    BitVec.eq_of_toNat_eq (hvol.symm.trans hvol'), power_flags_of_cmdCode_eq hp hq (hcmd.symm.trans hcmd')⟩

/-! ### The checksum is linear -/

/-- The XOR of sums is the sum of the XORs (41_payload_builder.md R80). -/
theorem foldl_xor_xor (f g : Nat → Nibble) (l : List Nat) (x y : Nibble) :
    l.foldl (fun acc n => acc ^^^ (f n ^^^ g n)) (x ^^^ y) =
      l.foldl (fun acc n => acc ^^^ f n) x ^^^ l.foldl (fun acc n => acc ^^^ g n) y := by
  induction l generalizing x y with
  | nil => rfl
  | cons n l ih =>
    have hswap : x ^^^ y ^^^ (f n ^^^ g n) = x ^^^ f n ^^^ (y ^^^ g n) := by ac_rfl
    rw [List.foldl_cons, hswap, ih, List.foldl_cons, List.foldl_cons]

/-- A value at one index alone counts once, when that index is in the list. -/
theorem foldl_xor_single (m : Nat) (v : Nibble) {l : List Nat} (hl : l.Nodup) (x : Nibble) :
    l.foldl (fun acc n => acc ^^^ if n = m then v else 0) x = x ^^^ if m ∈ l then v else 0 := by
  induction l generalizing x with
  | nil => simp
  | cons n l ih =>
    obtain ⟨hn, hl⟩ := List.nodup_cons.1 hl
    rw [List.foldl_cons, ih hl]
    by_cases h : n = m
    · subst h
      simp [hn]
    · simp [h, Ne.symm h]

/-- Flipping bit `b` of byte `i` flips that bit and no other. -/
theorem getLsbD_byteAt_flip (P : Payload) (i : Fin 13) {b : Nat} (hb : b < 8) (j c : Nat) :
    (byteAt (P.set i (P[i] ^^^ BitVec.twoPow 8 b)) j).getLsbD c =
      ((byteAt P j).getLsbD c ^^ decide (i.val = j ∧ b = c)) := by
  rw [byteAt_set]
  by_cases h : i.val = j
  · subst h
    simp [byteAt_fin, hb]
  · simp [h]

/-- Flipping bit `b` of byte `i` flips bit `b mod 4` of its nibble and no other (20_memory.md R31). -/
theorem nibble_flip (P : Payload) (i : Fin 13) {b : Nat} (hb : b < 8) (n : Nat) :
    nibble (P.set i (P[i] ^^^ BitVec.twoPow 8 b)) n =
      nibble P n ^^^ if n = 2 * i.val + b / 4 then BitVec.twoPow 4 (b % 4) else 0 := by
  refine BitVec.eq_of_getLsbD_eq fun c hc => ?_
  have hsame : (i.val = n / 2 ∧ b = 4 * (n % 2) + c) ↔ (n = 2 * i.val + b / 4 ∧ b % 4 = c) := by omega
  rw [getLsbD_nibble _ _ _ hc, getLsbD_byteAt_flip P i hb, BitVec.getLsbD_xor, getLsbD_nibble _ _ _ hc]
  simp only [hsame]
  by_cases hn : n = 2 * i.val + b / 4
  · simp [← hn, Nat.mod_lt]
  · simp [hn]

/-- A payload whose nibbles differ by `v` at nibble `m` alone has the checksum that differs by `v` if `m` is in the
range. -/
theorem checksum_xor_single {P Q : Payload} {m : Nat} {v : Nibble}
    (h : ∀ n, nibble Q n = nibble P n ^^^ if n = m then v else 0) :
    checksum Q = checksum P ^^^ if m ∈ checksumRange then v else 0 := by
  have hnodup : checksumRange.Nodup := List.nodup_range'
  have hlinear := foldl_xor_xor (nibble P) (fun n => if n = m then v else 0) checksumRange 0 0
  rw [foldl_xor_single m v hnodup] at hlinear
  simpa only [checksum, h, BitVec.ofNat_eq_ofNat, BitVec.zero_xor] using hlinear

/-- Settles O35: the checksum is linear, and the flipped nibble counts once if it is in the range. -/
theorem checksumFollowsEachBit : Obligations.ChecksumFollowsEachBit := by
  intro P i b hb
  have hflip := checksum_xor_single (nibble_flip P i hb)
  simp only [mem_checksumRange] at hflip
  exact hflip

/-! ### The one bits of a payload, nibble by nibble -/

/-- The number of 1 bits of a nibble. -/
def ones (x : Nibble) : Nat := (List.range 4).countP x.getLsbD

theorem ones_le_four (x : Nibble) : ones x ≤ 4 := List.countP_le_length.trans_eq List.length_range

theorem ones_pos {x : Nibble} (h : x.toNat ≠ 0) : 1 ≤ ones x := by
  revert x; decide

/-- A nibble whose bits from `k` on are 0 has at most `k` ones. -/
theorem ones_le : ∀ k ≤ 4, ∀ x : Nibble, (∀ b < 4, k ≤ b → x.getLsbD b = false) → ones x ≤ k := by
  decide

/-- XOR keeps the parity of the number of 1 bits. -/
theorem ones_xor_mod_two (x y : Nibble) : ones (x ^^^ y) % 2 = (ones x + ones y) % 2 := by
  revert x y; decide

/-- The number of 1 bits in the listed nibbles of a payload. -/
def nibbleOnes (P : Payload) (l : List Nat) : Nat := (l.map fun n => ones (nibble P n)).sum

theorem nibbleOnes_nil (P : Payload) : nibbleOnes P [] = 0 := rfl

theorem nibbleOnes_cons (P : Payload) (n : Nat) (l : List Nat) :
    nibbleOnes P (n :: l) = ones (nibble P n) + nibbleOnes P l := List.sum_cons

theorem nibbleOnes_append (P : Payload) (l l' : List Nat) :
    nibbleOnes P (l ++ l') = nibbleOnes P l + nibbleOnes P l' := by
  rw [nibbleOnes, List.map_append, List.sum_append, ← nibbleOnes, ← nibbleOnes]

theorem nibbleOnes_perm (P : Payload) {l l' : List Nat} (h : l.Perm l') : nibbleOnes P l = nibbleOnes P l' :=
  (h.map _).sum_eq

/-- Data bit `4 n + b` is bit `b` of nibble `n` (20_memory.md R30, R31). -/
theorem dataBit_nibble (P : Payload) (n : Nat) {b : Nat} (hb : b < 4) :
    dataBit P (4 * n + b) = (nibble P n).getLsbD b := by
  have hbyte : (4 * n + b) / 8 = n / 2 := by omega
  have hbit : (4 * n + b) % 8 = 4 * (n % 2) + b := by omega
  rw [getLsbD_nibble P n b hb, dataBit, hbyte, hbit]

/-- The data bits are the bits of the 26 nibbles. -/
theorem oneBits_eq_nibbleOnes (P : Payload) : oneBits P = nibbleOnes P (List.range 26) := by
  have hbits : List.range 104 = (List.range 26).flatMap fun n => (List.range 4).map (4 * n + ·) := rfl
  rw [oneBits_eq, hbits, List.countP_flatMap, nibbleOnes]
  refine congrArg List.sum (List.map_congr_left fun n _ => ?_)
  rw [Function.comp_apply, List.countP_map]
  exact List.countP_congr fun b hb => by rw [Function.comp_apply, dataBit_nibble P n (List.mem_range.1 hb)]

/-- The XOR of nibbles has the parity of their 1 bits. -/
theorem ones_foldl_xor_mod_two (P : Payload) (l : List Nat) (x : Nibble) :
    ones (l.foldl (fun acc n => acc ^^^ nibble P n) x) % 2 = (ones x + nibbleOnes P l) % 2 := by
  induction l generalizing x with
  | nil => rfl
  | cons n l ih =>
    have hx := ones_xor_mod_two x (nibble P n)
    rw [List.foldl_cons, ih, nibbleOnes_cons]
    omega

/-- The checksum has the parity of the 1 bits in its range (41_payload_builder.md R80). -/
theorem ones_checksum_mod_two (P : Payload) : ones (checksum P) % 2 = nibbleOnes P checksumRange % 2 := by
  have hzero : ones 0 = 0 := rfl
  rw [checksum, ones_foldl_xor_mod_two, hzero, Nat.zero_add]

/-! ### The nibbles of a payload under REF -/

/-- A bit of a nibble outside the fields holds BASE's value (10_state.md R18). -/
theorem getLsbD_nibble_constant {L : Layout} {P : Payload} (hP : ConstantBitsHold L P) {n b : Nat} (hn : n < 26)
    (hb : b < 4) (hout : ∀ f ∈ L.fields, f.hasBit (n / 2) (4 * (n % 2) + b) = false) :
    (nibble P n).getLsbD b = (nibble L.base n).getLsbD b := by
  rw [getLsbD_nibble P n b hb, getLsbD_nibble L.base n b hb]
  exact hP _ (by simp only [Config.nPayload_eq]; omega) _ (by omega) hout

/-- A nibble outside the fields holds BASE's value. -/
theorem nibble_constant {L : Layout} {P : Payload} (hP : ConstantBitsHold L P) {n : Nat} (hn : n < 26)
    (hout : ∀ b < 4, ∀ f ∈ L.fields, f.hasBit (n / 2) (4 * (n % 2) + b) = false) : nibble P n = nibble L.base n :=
  BitVec.eq_of_getLsbD_eq fun b hb => getLsbD_nibble_constant hP hn hb (hout b hb)

/-- A field one nibble wide is its nibble (20_memory.md R31). -/
theorem toNat_nibble_eq_fieldValue (P : Payload) {f : FieldPos} (hw : f.width = 4) (ho : f.off = 0 ∨ f.off = 4) :
    (nibble P (2 * f.byte.val + f.off / 4)).toNat = fieldValue P f := by
  have hbyte : (2 * f.byte.val + f.off / 4) / 2 = f.byte.val := by omega
  have hshift : 4 * ((2 * f.byte.val + f.off / 4) % 2) = f.off := by omega
  have hwidth : f.off + 4 - 1 - f.off + 1 = 4 := by omega
  rw [nibble, hbyte, hshift, byteAt_fin, BitVec.toNat_setWidth, BitVec.toNat_ushiftRight, Nat.shiftRight_eq_div_pow,
    fieldValue, bits, hw, hwidth]

/-- Nibbles outside the fields have as many 1 bits as in BASE. -/
theorem nibbleOnes_constant {L : Layout} {P : Payload} (hP : ConstantBitsHold L P) {l : List Nat}
    (hl : ∀ n ∈ l, n < 26 ∧ ∀ b < 4, ∀ f ∈ L.fields, f.hasBit (n / 2) (4 * (n % 2) + b) = false) :
    nibbleOnes P l = nibbleOnes L.base l :=
  congrArg List.sum (List.map_congr_left fun n hn => by rw [nibble_constant hP (hl n hn).1 (hl n hn).2])

/-- Under REF the range has 9 constant 1 bits, and the variable ones in five nibbles (30_encoding.md R44). -/
theorem nibbleOnes_checksumRange_ref {P : Payload} (hP : ConstantBitsHold Config.ref P) :
    nibbleOnes P checksumRange = 9 + ones (nibble P 8) + ones (nibble P 11) + ones (nibble P 12)
      + ones (nibble P 13) + ones (nibble P 20) := by
  have hperm : checksumRange.Perm ([8, 11, 12, 13, 20] ++ [5, 6, 7, 9, 10, 14, 15, 16, 17, 18, 19, 21, 22, 23]) := by
    decide
  have hconst : nibbleOnes P [5, 6, 7, 9, 10, 14, 15, 16, 17, 18, 19, 21, 22, 23] = 9 :=
    (nibbleOnes_constant hP (by decide)).trans (by decide)
  rw [nibbleOnes_perm P hperm, nibbleOnes_append, hconst]
  simp only [nibbleOnes_cons, nibbleOnes_nil]
  omega

/-- Under REF 13 of the 1 bits outside the range are constant; the others are the checksum's (30_encoding.md R44). -/
theorem oneBits_ref {P : Payload} (hP : ConstantBitsHold Config.ref P) :
    oneBits P = 13 + nibbleOnes P checksumRange + ones (nibble P 25) := by
  have hperm : (List.range 26).Perm ([0, 1, 2, 3, 4, 24] ++ checksumRange ++ [25]) := by decide
  have hconst : nibbleOnes P [0, 1, 2, 3, 4, 24] = 13 := (nibbleOnes_constant hP (by decide)).trans (by decide)
  rw [oneBits_eq_nibbleOnes, nibbleOnes_perm P hperm, nibbleOnes_append, nibbleOnes_append, hconst,
    nibbleOnes_cons P 25, nibbleOnes_nil, Nat.add_zero]

/-- Under REF the number of 1 bits is odd, as the checksum's are as many, modulo 2, as those of its range. -/
theorem oneBits_ref_odd {p : Params} (hp : valid p = true) : oneBits (buildPayload Config.ref p) % 2 = 1 := by
  have hL := referenceLayoutWellFormed.1
  have hones := oneBits_ref (constantBitsNeverVary _ p hL hp)
  have hparity := ones_checksum_mod_two (buildPayload Config.ref p)
  have hnibble : nibble (buildPayload Config.ref p) 25 = checksum (buildPayload Config.ref p) :=
    BitVec.eq_of_toNat_eq ((toNat_nibble_eq_fieldValue _ (f := Config.ref.checksum) rfl (.inr rfl)).trans
      ((checksumSelfCheck _ p hL hp).2 (by decide)).symm)
  rw [hnibble] at hones
  omega

theorem cmdCode_pos (p : Params) : 1 ≤ cmdCode p := by
  unfold cmdCode; split <;> split <;> decide

/-- A nibble with `k` variable bits, above which BASE is 0, has at most `k` ones. -/
theorem ones_nibble_le {L : Layout} {P : Payload} (hP : ConstantBitsHold L P) {n : Nat} (k : Nat) (hn : n < 26)
    (hk : k ≤ 4) (hconst : ∀ b < 4, k ≤ b → (nibble L.base n).getLsbD b = false
      ∧ ∀ f ∈ L.fields, f.hasBit (n / 2) (4 * (n % 2) + b) = false) : ones (nibble P n) ≤ k :=
  ones_le k hk _ fun b hb hkb => (getLsbD_nibble_constant hP hn hb (hconst b hb hkb).2).trans (hconst b hb hkb).1

/-- Nibble 8 under REF is TEMP, from 1 to 15. -/
theorem ones_temp_ref {p : Params} (hp : valid p = true) : 1 ≤ ones (nibble (buildPayload Config.ref p) 8) := by
  obtain ⟨htemp, -⟩ := payloadHolds_buildPayload referenceLayoutWellFormed.1 hp
  have hnibble := (toNat_nibble_eq_fieldValue _ (f := Config.ref.temp) rfl (.inl rfl)).trans htemp
  exact ones_pos (hnibble.trans_ne (Nat.ne_of_gt (tempField_bounds hp).1))

/-- Nibble 11 under REF is CMD, one of 1, 2, 6 and 7. -/
theorem ones_cmd_ref {p : Params} (hp : valid p = true) :
    1 ≤ ones (nibble (buildPayload Config.ref p) 11) ∧ ones (nibble (buildPayload Config.ref p) 11) ≤ 3 := by
  obtain ⟨-, hcmd, -⟩ := payloadHolds_buildPayload referenceLayoutWellFormed.1 hp
  have hnibble := (toNat_nibble_eq_fieldValue _ (f := Config.ref.cmd) rfl (.inr rfl)).trans hcmd
  exact ⟨ones_pos (hnibble.trans_ne (Nat.ne_of_gt (cmdCode_pos p))),
    ones_le 3 (by decide) _ fun b _ hb => testBit_of_lt_two_pow (hnibble.trans_lt (cmdCode_lt p)) hb⟩

/-- Under REF a payload has 22 constant 1 bits, at least 2 and at most 17 variable ones. -/
theorem oneBits_ref_bounds {p : Params} (hp : valid p = true) :
    24 ≤ oneBits (buildPayload Config.ref p) ∧ oneBits (buildPayload Config.ref p) ≤ 39 := by
  have hP := constantBitsNeverVary _ p referenceLayoutWellFormed.1 hp
  have hrange := nibbleOnes_checksumRange_ref hP
  have hones := oneBits_ref hP
  have htemp := ones_temp_ref hp
  have htemp4 := ones_le_four (nibble (buildPayload Config.ref p) 8)
  have hcmd := ones_cmd_ref hp
  have hmode := ones_nibble_le hP (n := 12) 2 (by decide) (by decide) (by decide)
  have hvol := ones_nibble_le hP (n := 13) 3 (by decide) (by decide) (by decide)
  have hfull := ones_nibble_le hP (n := 20) 1 (by decide) (by decide) (by decide)
  have hcheck := ones_le_four (nibble (buildPayload Config.ref p) 25)
  omega

/-- Settles O46: 24 is the least the fields allow, and the number of 1 bits is odd, so it is at least 25; POS follows
from the length of the frame. -/
theorem noTruncationUnderReference : Obligations.NoTruncationUnderReference := by
  intro p hp
  obtain ⟨hmin, hmax⟩ := oneBits_ref_bounds hp
  have hodd := oneBits_ref_odd hp
  rw [resample_pos, totalDuration_frame]
  omega

end Sys2Proof.Machine

/-! The statements about the frame's length and its leader (42_pulse_framing.md): the start times of the pairs, the
slots a pair leaves as they are, and the samples of the leader. -/

namespace Sys2Proof.Machine

/-! ### Start times -/

/-- Each pair starts where the pair before it ends (42_pulse_framing.md R94). -/
theorem startTime_succ (T : Vector Pulse Config.nPairs) {k : Nat} (hk : k < 106) :
    startTime T (k + 1) = startTime T k + (T[k].mark + T[k].space) := by
  have hlen : k < T.toList.length := by simpa using hk
  simp [startTime, List.take_succ_eq_append_getElem hlen]

/-- The last pair ends with the train. -/
theorem startTime_106 (T : Vector Pulse Config.nPairs) : startTime T 106 = totalDuration T := by
  rw [startTime, totalDuration, List.take_of_length_le (by simp)]

/-- The trailer's mark and space, 488 and 8000 microseconds, are the last of a frame. -/
theorem startTime_trailer (P : Payload) : startTime (frame P) 105 + 8488 = totalDuration (frame P) := by
  rw [← startTime_106, startTime_succ _ (by decide : 105 < 106), frame_getElem P 105 (by decide)]
  rfl

/-- Settles O38: the length of a frame, the bound of 104 on its 1 bits, and the trailer's space after its mark. -/
theorem frameDuration : Obligations.FrameDuration := by
  intro P
  have htotal := totalDuration_frame P
  have hones := oneBits_le P
  have htrailer := startTime_trailer P
  omega

/-! ### The slots a pair leaves as they are -/

/-- A fill writes the slots from POS up to its end that exist (43_resampler_packer.md R103). -/
theorem getLsbD_fill (e : Nat) (v : Bool) (g : Grid) (k : Nat) :
    (fill e v g).sample.getLsbD k = if g.pos ≤ k ∧ k < e ∧ k < 1920 then v else g.sample.getLsbD k := by
  rw [fill, getLsbD_fillLoop]
  exact if_congr (by omega) rfl rfl

theorem getLsbD_advance (d : Nat) (v : Bool) (g : Grid) (k : Nat) :
    (advance d v g).sample.getLsbD k =
      if g.pos ≤ k ∧ k < (g.clk + d) / 100 ∧ k < 1920 then v else g.sample.getLsbD k :=
  getLsbD_fill _ _ _ k

theorem advance_pos_le (d : Nat) (v : Bool) (g : Grid) : g.pos ≤ (advance d v g).pos :=
  (Nat.le_max_left _ _).trans_eq (advance_pos d v g).symm

theorem pairStep_pos_le (g : Grid) (q : Pulse) : g.pos ≤ (pairStep g q).pos :=
  (advance_pos_le _ _ g).trans (advance_pos_le _ _ _)

theorem getLsbD_advance_of_lt (d : Nat) (v : Bool) {g : Grid} {k : Nat} (hk : k < g.pos) :
    (advance d v g).sample.getLsbD k = g.sample.getLsbD k := by
  rw [getLsbD_advance, if_neg (fun h => Nat.not_le.2 hk h.1)]

/-- A pair rewrites no slot below POS. -/
theorem getLsbD_pairStep_of_lt {g : Grid} (q : Pulse) {k : Nat} (hk : k < g.pos) :
    (pairStep g q).sample.getLsbD k = g.sample.getLsbD k := by
  rw [pairStep, getLsbD_advance_of_lt _ _ (hk.trans_le (advance_pos_le _ _ g)), getLsbD_advance_of_lt _ _ hk]

theorem getLsbD_foldl_pairStep_of_lt (l : List Pulse) {g : Grid} {k : Nat} (hk : k < g.pos) :
    (l.foldl pairStep g).sample.getLsbD k = g.sample.getLsbD k := by
  induction l generalizing g with
  | nil => rfl
  | cons q l ih =>
    rw [List.foldl_cons, ih (hk.trans_le (pairStep_pos_le g q)), getLsbD_pairStep_of_lt q hk]

/-! ### The samples of the leader -/

theorem pos_leaderMark : (advance leaderPair.mark true gridStart).pos = 39 := advance_pos _ _ _

theorem pos_leader : (pairStep gridStart leaderPair).pos = 57 := by
  rw [pairStep_pos _ rfl, pairStep_clk]
  rfl

/-- The leader's mark fills the slots 0 to 38 with 1, and its space those up to 56 with 0 (42_pulse_framing.md R91). -/
theorem getLsbD_leader {k : Nat} (hk : k < 57) :
    (pairStep gridStart leaderPair).sample.getLsbD k = decide (k < 39) := by
  rw [pairStep]
  by_cases hmark : k < 39
  · have hslot : gridStart.pos ≤ k ∧ k < (gridStart.clk + leaderPair.mark) / 100 ∧ k < 1920 :=
      ⟨Nat.zero_le k, hmark, by omega⟩
    rw [getLsbD_advance_of_lt _ _ (hmark.trans_eq pos_leaderMark.symm), getLsbD_advance, if_pos hslot,
      decide_eq_true hmark]
  · have hslot : (advance leaderPair.mark true gridStart).pos ≤ k
        ∧ k < ((advance leaderPair.mark true gridStart).clk + leaderPair.space) / 100 ∧ k < 1920 := by
      rw [pos_leaderMark, advance_clk]
      exact ⟨Nat.not_lt.1 hmark, hk, by omega⟩
    rw [getLsbD_advance, if_pos hslot, decide_eq_false hmark]

/-- Every frame's first 57 samples are the leader's: no later pair rewrites them. -/
theorem getLsbD_resample_frame_of_lt (P : Payload) {k : Nat} (hk : k < 57) :
    (resample (frame P)).sample.getLsbD k = decide (k < 39) := by
  rw [resample, frame_toList, List.cons_append, List.foldl_cons,
    getLsbD_foldl_pairStep_of_lt _ (hk.trans_eq pos_leader.symm), getLsbD_leader hk]

theorem getLsbD_encodePayload (P : Payload) {j b : Nat} (hj : j < 240) (hb : b < 8) :
    ((encodePayload P)[j]).getLsbD b = (resample (frame P)).sample.getLsbD (8 * j + b) :=
  packKeepsEverySample _ j hj b hb

/-- 39 ones and then 17 zeros, eight to a byte from bit 0 up (43_resampler_packer.md R111). -/
theorem getLsbD_leaderBytes : ∀ j, ∀ hj : j < 7, ∀ b < 8,
    ([0xFF, 0xFF, 0xFF, 0xFF, 0x7F, 0x00, 0x00] : List Byte)[j].getLsbD b = decide (8 * j + b < 39) := by
  decide

/-- Settles O49: the samples 0 to 56 are the leader's, 39 ones and then 18 zeros, in the packer's bit order. -/
theorem everyOutputBeginsWithTheLeader : Obligations.EveryOutputBeginsWithTheLeader := by
  intro P
  constructor
  · apply List.ext_getElem (by simp)
    intro j _ hj
    replace hj : j < 7 := hj
    rw [List.getElem_take, Vector.getElem_toList]
    apply BitVec.eq_of_getLsbD_eq
    intro b hb
    rw [getLsbD_encodePayload P (by omega) hb, getLsbD_resample_frame_of_lt P (by omega),
      getLsbD_leaderBytes j hj b hb]
  · rw [getLsbD_encodePayload P (by decide) (by decide), getLsbD_resample_frame_of_lt P (by decide)]
    rfl

end Sys2Proof.Machine


/-! The statements about the resampler and the packer (43_resampler_packer.md): the bounded store and the fill, CLK
and POS, the slots of the marks, and what happens past the capacity and past the end of the frame. -/

namespace Sys2Proof.Machine

/-! ### The bounded store, the fill and the pair -/

/-- Nothing is written at or above CAP (43_resampler_packer.md R104). -/
theorem sampleWrite_of_cap_le (S : BitVec 1920) {i : Nat} (v : Bool) (hi : 1920 ≤ i) : sampleWrite S i v = S :=
  if_neg (Nat.not_lt.2 hi)

/-- Settles O39: what the bounded store writes, slot by slot, below CAP and not below it. -/
theorem boundedSampleStore : Obligations.BoundedSampleStore := by
  refine fun S i v => ⟨sampleWrite_of_cap_le S v, fun hi k => ?_⟩
  rw [getLsbD_sampleWrite]
  exact if_congr (and_iff_left hi) rfl rfl

/-- Settles O40: POS and CLK after a fill, and the slots it writes, all of them below CAP. -/
theorem fillIsHalfOpen : Obligations.FillIsHalfOpen := by
  refine fun g e v => ⟨fill_pos e v g, fill_clk e v g, fun k hk => ?_⟩
  rw [getLsbD_fill]
  exact if_congr (and_congr_right fun _ => and_iff_left hk) rfl rfl

/-- Settles O44: a pair adds its durations to CLK, its fills only raise POS and write no slot below it. -/
theorem resamplerOnlyExtendsForward : Obligations.ResamplerOnlyExtendsForward := fun g q =>
  ⟨(Nat.le_add_right _ _).trans_eq (pairStep_clk g q).symm, pairStep_pos_le g q, fun _ => getLsbD_pairStep_of_lt q⟩

/-! ### The final CLK and POS -/

/-- Settles O41: POS stays the floor of CLK from pair to pair. -/
theorem finalClockAndPosition : Obligations.FinalClockAndPosition := fun T => ⟨resample_clk T, resample_pos T⟩

/-- Settles O43: the length of a frame, with at most 104 bits that are 1. -/
theorem frameClockBounds : Obligations.FrameClockBounds := by
  intro P
  have hones := oneBits_le P
  rw [resample_clk, resample_pos, totalDuration_frame]
  omega

/-! ### The closed form of SAMPLE -/

/-- Slot `i` lies between the floors of the two ends of the mark of pair `k` (43_resampler_packer.md R107). -/
def MarkCovers (T : Vector Pulse Config.nPairs) (k i : Nat) : Prop :=
  ∃ h : k < Config.nPairs, startTime T k / 100 ≤ i ∧ i < (startTime T k + T[k].mark) / 100

theorem markCovers_iff (T : Vector Pulse Config.nPairs) {k i : Nat} (hk : k < 106) :
    MarkCovers T k i ↔ startTime T k / 100 ≤ i ∧ i < (startTime T k + T[k].mark) / 100 :=
  exists_prop_of_true hk

theorem startTime_le_startTime (T : Vector Pulse Config.nPairs) {j k : Nat} (h : j ≤ k) :
    startTime T j ≤ startTime T k :=
  (((List.take_prefix_take_left h).sublist).map _).sum_le_sum (by simp)

/-- A mark ends before any later pair starts. -/
theorem MarkCovers.lt_startTime {T : Vector Pulse Config.nPairs} {k i n : Nat} (h : MarkCovers T k i) (hkn : k < n) :
    i < startTime T n / 100 := by
  obtain ⟨hk, -, hi⟩ := h
  have hnext := startTime_succ T hk
  have hlater := startTime_le_startTime T (show k + 1 ≤ n from hkn)
  omega

theorem pairStep_pos_eq_max (g : Grid) (q : Pulse) :
    (pairStep g q).pos = max g.pos ((g.clk + q.mark + q.space) / 100) := by
  rw [pairStep, advance_pos, advance_pos, advance_clk]
  omega

/-- The slots a pair takes are those from the old POS to the new one: 1 up to the mark's end, and then 0. -/
theorem getLsbD_pairStep (g : Grid) (q : Pulse) {i : Nat} (hi : i < 1920) :
    (pairStep g q).sample.getLsbD i =
      if g.pos ≤ i ∧ i < (pairStep g q).pos then decide (i < (g.clk + q.mark) / 100) else g.sample.getLsbD i := by
  rw [pairStep_pos_eq_max, pairStep]
  by_cases hmark : i < (g.clk + q.mark) / 100
  · have hpos : i < (advance q.mark true g).pos := by rw [advance_pos]; omega
    rw [getLsbD_advance_of_lt _ _ hpos, getLsbD_advance, decide_eq_true hmark]
    exact if_congr (by omega) rfl rfl
  · have hout : ¬(g.pos ≤ i ∧ i < (g.clk + q.mark) / 100 ∧ i < 1920) := by omega
    rw [getLsbD_advance, getLsbD_advance, if_neg hout, advance_pos, advance_clk, decide_eq_false hmark]
    exact if_congr (by omega) rfl rfl

/-- The grid after the first `n` pairs. -/
def gridAfter (T : Vector Pulse Config.nPairs) (n : Nat) : Grid := (T.toList.take n).foldl pairStep gridStart

theorem gridAfter_succ (T : Vector Pulse Config.nPairs) {n : Nat} (hn : n < 106) :
    gridAfter T (n + 1) = pairStep (gridAfter T n) T[n] := by
  have hlen : n < T.toList.length := by simpa using hn
  simp [gridAfter, List.take_succ_eq_append_getElem hlen]

theorem gridAfter_106 (T : Vector Pulse Config.nPairs) : gridAfter T 106 = resample T := by
  rw [gridAfter, resample, List.take_of_length_le (by simp)]

theorem gridAfter_clk (T : Vector Pulse Config.nPairs) (n : Nat) : (gridAfter T n).clk = startTime T n :=
  (foldl_pairStep_clk _ gridStart).trans (Nat.zero_add _)

theorem gridAfter_pos (T : Vector Pulse Config.nPairs) (n : Nat) : (gridAfter T n).pos = startTime T n / 100 := by
  rw [← gridAfter_clk]
  exact foldl_pairStep_pos _ rfl

/-- After `n` pairs the slots that hold 1 are those of the first `n` marks: the next pair takes slots that lie past
all of these. -/
theorem getLsbD_gridAfter_iff (T : Vector Pulse Config.nPairs) {i : Nat} (hi : i < 1920) (n : Nat) (hn : n ≤ 106) :
    (gridAfter T n).sample.getLsbD i = true ↔ ∃ k < n, MarkCovers T k i := by
  induction n with
  | zero => simp [gridAfter, gridStart]
  | succ n ih =>
    replace ih := ih (Nat.le_of_succ_le hn)
    have hnext := startTime_succ T hn
    rw [Nat.exists_lt_succ_right, ← ih, markCovers_iff T hn, gridAfter_succ T hn, getLsbD_pairStep _ _ hi,
      ← gridAfter_succ T hn, gridAfter_pos, gridAfter_pos, gridAfter_clk]
    by_cases hslot : startTime T n / 100 ≤ i ∧ i < startTime T (n + 1) / 100
    · have hblank : ¬(gridAfter T n).sample.getLsbD i = true := fun h => by
        obtain ⟨k, hk, hmark⟩ := ih.1 h
        exact Nat.not_le.2 (hmark.lt_startTime hk) hslot.1
      rw [if_pos hslot, decide_eq_true_eq, or_iff_right hblank, and_iff_right hslot.1]
    · rw [if_neg hslot, or_iff_left (by omega)]

theorem getLsbD_resample_iff (T : Vector Pulse Config.nPairs) {i : Nat} (hi : i < 1920) :
    (resample T).sample.getLsbD i = true ↔ ∃ k < 106, MarkCovers T k i := by
  rw [← gridAfter_106, getLsbD_gridAfter_iff T hi 106 le_rfl]

/-- Settles O42: after all 106 pairs the slots that hold 1 are those of the marks. -/
theorem resampleClosedForm : Obligations.ResampleClosedForm := by
  intro T i hi
  rw [getLsbD_resample_iff T hi]
  exact exists_congr fun k => and_iff_right_of_imp fun h => h.1

/-! ### Truncation -/

/-- The mark of the last pair ends latest. -/
theorem MarkCovers.lt_lastMark {T : Vector Pulse Config.nPairs} {k i : Nat} (h : MarkCovers T k i) :
    i < (startTime T 105 + T[105].mark) / 100 := by
  by_cases hk : k < 105
  · exact (h.lt_startTime hk).trans_le (Nat.div_le_div_right (Nat.le_add_right _ _))
  · obtain ⟨hk', -, hi⟩ := h
    obtain rfl : k = 105 := Nat.le_antisymm (Nat.le_of_lt_succ hk') (Nat.not_lt.1 hk)
    exact hi

theorem dropsOneSample_iff (T : Vector Pulse Config.nPairs) :
    DropsOneSample T ↔ ∃ k i, 1920 ≤ i ∧ MarkCovers T k i :=
  ⟨fun ⟨k, hk, i, hi, hmark⟩ => ⟨k, i, hi, hk, hmark⟩, fun ⟨k, i, hi, hk, hmark⟩ => ⟨k, hk, i, hi, hmark⟩⟩

theorem trailer_mark (P : Payload) : (frame P)[105].mark = 488 := by
  rw [frame_getElem P 105 (by decide)]
  rfl

/-- A 1-sample is dropped when the trailer's mark, the last one, ends past the capacity; with 94 or more 1 bits it
starts at or past it (43_resampler_packer.md R110). -/
theorem dropsOneSample_frame_iff (P : Payload) : DropsOneSample (frame P) ↔ 94 ≤ oneBits P := by
  obtain ⟨-, -, -, htrailer⟩ := frameDuration P
  have hmark := trailer_mark P
  rw [dropsOneSample_iff]
  constructor
  · rintro ⟨k, i, hi, h⟩
    have hend := h.lt_lastMark
    omega
  · intro hones
    refine ⟨105, startTime (frame P) 105 / 100, ?_, (by decide), le_rfl, ?_⟩
    · omega
    · omega

/-- Settles O45: the length of the frame against the capacity, and the end of its last mark. -/
theorem truncationByOneBits : Obligations.TruncationByOneBits := by
  intro P
  have hpos : (resample (frame P)).pos = (113256 + 928 * oneBits P) / 100 := by
    rw [resample_pos, totalDuration_frame]
  refine ⟨?_, dropsOneSample_frame_iff P, ?_⟩
  · omega
  · omega

/-! ### Past the end of the frame -/

/-- No mark reaches the final POS, so the slots from there on hold 0. -/
theorem getLsbD_resample_of_pos_le (T : Vector Pulse Config.nPairs) {i : Nat} (hpos : (resample T).pos ≤ i)
    (hi : i < 1920) : (resample T).sample.getLsbD i = false := by
  rw [Bool.eq_false_iff, ne_eq, getLsbD_resample_iff T hi]
  rintro ⟨k, hk, hmark⟩
  have hi' := hmark.lt_startTime hk
  rw [startTime_106, ← resample_pos] at hi'
  exact Nat.not_le.2 hi' hpos

/-- Settles O48: the eight samples of the byte lie at or past the final POS. -/
theorem bytesPastTheFrameAreZero : Obligations.BytesPastTheFrameAreZero := by
  intro P j hj hpos
  apply BitVec.eq_of_getLsbD_eq
  intro b hb
  rw [getLsbD_encodePayload P hj hb, getLsbD_resample_of_pos_le _ (by omega) (by omega)]
  exact BitVec.getLsbD_zero.symm

end Sys2Proof.Machine

/-! The statements about the exception (60_exceptions.md): its entry, ERROR and the ways out of it, and the number of
valid words. -/

namespace Sys2Proof.Machine

/-! ### ERROR and the ways out of it -/

/-- A step that leaves ERROR is RESET or a valid START: a rejected START enters ERROR again, and nothing else writes
ST (60_exceptions.md R120). -/
theorem step_leaves_error {s t : State} (hs : s.st = .error) (h : step s = .next t) (ht : t.st ≠ .error) :
    (∃ w rest, s.events = .start w :: rest ∧ valid (paramsOfWord w) = true ∧ t.st = .done) ∨
      ∃ rest, s.events = .reset :: rest ∧ t.st = .idle := by
  obtain ⟨rest, hevents, rfl⟩ | ⟨w, rest, hevents, rfl⟩ | hblock := step_block_cases h
  · exact .inr ⟨rest, hevents, rfl⟩
  · cases hw : valid (paramsOfWord w) with
    | true =>
      rw [start_of_valid _ hw]
      exact .inl ⟨w, rest, hevents, hw, complete_st _ _ _⟩
    | false =>
      rw [start_of_invalid _ hw] at ht
      exact absurd (raiseInvalidParameters_st _) ht
  · exact absurd (hblock.st.trans hs) ht

/-- Settles O21: the steps that leave ERROR, what each START and RESET leaves, and the answers outside DONE. -/
theorem errorLeftByStartOrReset : Obligations.ErrorLeftByStartOrReset := by
  intro s hs
  have hdone : s.st ≠ .done := by simp [hs]
  exact ⟨fun _ => step_leaves_error hs,
    fun _ _ hevents hw => ⟨_, step_start_of_valid hevents hw, complete_st _ _ _⟩,
    fun _ _ hevents hw => ⟨_, step_start_of_invalid hevents hw, raiseInvalidParameters_st _⟩,
    fun _ hevents => ⟨_, step_cons hevents, resetBlock_st _⟩,
    by rw [readST, hs, statusCode], fun i => readPayload_of_not_done i hdone, fun j => readOut_of_not_done j hdone⟩

/-! ### Taking the exception -/

/-- Settles O19: exec is START with the command's parameters, which are invalid when the operands are out of range. -/
theorem illFormedCommandRejected : Obligations.IllFormedCommandRejected := by
  intro i s hi
  have hinvalid : valid (instrParams i) = false := (valid_instrParams i).trans hi
  exact ⟨raiseInvalidParameters s, by rw [exec_eq_start, start_of_invalid s hinvalid],
    rejectedAs_raiseInvalidParameters s.events s⟩

/-- Settles O20: the step raises InvalidParameters, which writes ST and the results alone. -/
theorem invalidParametersEntry : Obligations.InvalidParametersEntry := fun s _ rest hs h =>
  ⟨_, step_start_of_invalid hs h, rejectedAs_raiseInvalidParameters rest s⟩

/-! ### The number of valid words -/

/-- The low digit of `n` in base `a` meets `p`, and the rest of `n` meets `q`. -/
def digitAndRest (a : Nat) (p q : Nat → Bool) (n : Nat) : Bool := p (n % a) && q (n / a)

/-- A block of `a` numbers with the same rest `b` holds as many numbers that meet both as there are digits that meet
`p`, or none. -/
theorem countP_digitAndRest_block (a b : Nat) (p q : Nat → Bool) :
    (List.range a).countP (fun k => digitAndRest a p q (a * b + k)) = (List.range a).countP p * [b].countP q := by
  have hdigits : ∀ k ∈ List.range a, digitAndRest a p q (a * b + k) = (p k && q b) := by
    intro k hk
    have hk : k < a := List.mem_range.1 hk
    rw [digitAndRest, Nat.mul_add_mod, Nat.mod_eq_of_lt hk, Nat.mul_add_div (by omega), Nat.div_eq_of_lt hk,
      Nat.add_zero]
  rw [List.countP_congr fun k hk => by rw [hdigits k hk], List.countP_singleton]
  cases q b <;> simp

/-- The digit and the rest are chosen independently. -/
theorem countP_range_mul (a b : Nat) (p q : Nat → Bool) :
    (List.range (a * b)).countP (digitAndRest a p q) = (List.range a).countP p * (List.range b).countP q := by
  induction b with
  | zero => simp
  | succ b ih =>
    rw [Nat.mul_succ, List.range_add, List.countP_append, ih, List.countP_map, Function.comp_def,
      countP_digitAndRest_block, List.range_succ, List.countP_append, Nat.mul_add]

/-- TEMP in range (40_commands.md R61). -/
def tempOk (t : Nat) : Bool := decide (18 ≤ t) && decide (t ≤ 32)

/-- MODE or VOL in range (40_commands.md R61). -/
def levelOk (k : Nat) : Bool := decide (k ≤ 3)

/-- POWER in range, and FPV set or FP clear, in the word's upper four bits (40_commands.md R61). -/
def powerFlagsOk (k : Nat) : Bool := decide (k % 4 ≤ 1) && (decide (k / 8 = 1) || decide (k / 4 % 2 = 0))

/-- The conditions of R61 on the digits of a word in the mixed base 64, 8, 8, 16: TEMP, MODE, VOL, and POWER with the
flags (30_encoding.md R40). -/
def digitsOk : Nat → Bool := digitAndRest 64 tempOk (digitAndRest 8 levelOk (digitAndRest 8 levelOk powerFlagsOk))

theorem valid_ofNat {n : Nat} (hn : n < 65536) : valid (paramsOfWord (BitVec.ofNat 16 n)) = digitsOk n := by
  have hw : (BitVec.ofNat 16 n).toNat = n := Nat.mod_eq_of_lt hn
  have hvalid := (validWordsMatchAPattern (BitVec.ofNat 16 n)).1
  rw [hw] at hvalid
  rw [Bool.eq_iff_iff, hvalid]
  simp only [bits, digitsOk, digitAndRest, tempOk, levelOk, powerFlagsOk, Bool.and_eq_true, Bool.or_eq_true,
    decide_eq_true_eq]
  omega

/-- Settles O11: 15 values of TEMP, 4 of MODE, 4 of VOL and 6 of POWER with the flags, independent of each other. -/
theorem validWordsCount1440 : Obligations.ValidWordsCount1440 := by
  have htemp : (List.range 64).countP tempOk = 15 := by decide
  have hlevel : (List.range 8).countP levelOk = 4 := by decide
  have hpower : (List.range 16).countP powerFlagsOk = 6 := by decide
  calc (List.range 65536).countP (fun n => valid (paramsOfWord (BitVec.ofNat 16 n)))
      = (List.range (64 * (8 * (8 * 16)))).countP digitsOk :=
        List.countP_congr fun n hn => by rw [valid_ofNat (List.mem_range.1 hn)]
    _ = 15 * (4 * (4 * 6)) := by
        rw [digitsOk, countP_range_mul, countP_range_mul, countP_range_mul, htemp, hlevel, hpower]

end Sys2Proof.Machine

/-! The statements about reset and the order of events (70_reset_and_hazards.md): the state after reset, RESET in any
state, and what a step and a command do to the pending events and the answers. -/

namespace Sys2Proof.Machine

/-! ### Reset -/

/-- Settles O1: each part is the reset value of its field. -/
theorem resetLeavesIdleWithoutResults : Obligations.ResetLeavesIdleWithoutResults := ⟨rfl, rfl, rfl⟩

/-- Settles O2: the step takes the event and resets the block, in whatever state it was. -/
theorem resetEventFromAnyState : Obligations.ResetEventFromAnyState := fun s rest hs =>
  ⟨resetBlock (setEvents rest s), step_cons hs, resetBlock_st _, resetBlock_results _⟩

/-! ### Pending events and answers -/

/-- Settles O4: a step acts on a pending event only. -/
theorem noEventNoChange : Obligations.NoEventNoChange := fun _ => step_nil

/-- Acting on an event leaves the events that are still pending as they are. -/
@[simp] theorem afterEvent_events (e : HostEvent) (s : State) : (afterEvent e s).events = s.events := by
  cases e with
  | reset => exact resetBlock_events s
  | start w => exact start_events _ _ s
  | readST => exact receive_events _ s
  | readPayload i => exact receive_events _ s
  | readOut j => exact receive_events _ s

/-- RESET and START answer nothing; a read adds its answer at the end. -/
theorem afterEvent_answers_cases (e : HostEvent) (s : State) :
    (afterEvent e s).answers = s.answers ∨ ∃ a, (afterEvent e s).answers = s.answers ++ [a] := by
  cases e with
  | reset => exact .inl (resetBlock_answers s)
  | start w => exact .inl (start_answers _ _ s)
  | readST => exact .inr ⟨_, receive_answers _ s⟩
  | readPayload i => exact .inr ⟨_, receive_answers _ s⟩
  | readOut j => exact .inr ⟨_, receive_answers _ s⟩

/-- Settles O5: with no event pending the step waits; otherwise the oldest event is taken and acted on. -/
theorem everyEventAccepted : Obligations.EveryEventAccepted := by
  intro s
  cases hs : s.events with
  | nil => exact ⟨s, step_nil hs, hs, .inl rfl⟩
  | cons e rest =>
    exact ⟨afterEvent e (setEvents rest s), (step_cons hs).trans (hostStep_eq _ _), afterEvent_events _ _,
      afterEvent_answers_cases e (setEvents rest s)⟩

/-- Settles O6: every command is START with its parameters, and START writes the block's fields only. -/
theorem commandsKeepTheEnvironment : Obligations.CommandsKeepTheEnvironment := fun i s =>
  ⟨_, exec_eq_start i s, start_events _ _ s, start_answers _ _ s⟩

end Sys2Proof.Machine
